-- ==== Sys2Proof/Word.lean ====
section
/-! DEFINITION. The widths of the engine: the 32-bit BitVector container, the message byte, the command word and the
bit index (spec/00_scope.md R6, R8, R12, R13; spec/30_encoding.md R70; spec/40_bitvector.md R90, R95). -/

namespace Sys2Proof

/-- A BitVector: one unsigned 32-bit value, bit 0 the least significant (R6, R12, R90). -/
abbrev Word := BitVec 32

/-- One message byte (R8). -/
abbrev Byte := BitVec 8

/-- The 128-bit command word `cmd[127:0]` (R70). -/
abbrev CmdWord := BitVec 128

/-- The content of the 6-bit register and command field `DEGREE`, an unsigned number in 0..63 (R24, R75). -/
abbrev DegreeBits := BitVec 6

/-- A bit index of a BitVector: a number below 32, so that an index of 32 or more cannot be written (R95). -/
abbrev BitIndex := Fin 32

/-- A bit index of a message byte, and a column number of `H1` (R36, R97). -/
abbrev ByteIndex := Fin 8

end Sys2Proof
end

