-- ==== Sys2Proof/Machine/Operands.lean ====
section
/-! DEFINITION. Operand forms: the fields of the command word (spec/30_encoding.md R71, R75) and the range check of a
configuration (spec/60_exceptions.md R171). -/

namespace Sys2Proof.Machine

/-- `OP = cmd[2:0]` (R71). -/
def opField (cmd : CmdWord) : BitVec 3 := cmd.extractLsb' 0 3
/-- `cmd[1:0]`, the part of `OP` that a reserved opcode leaves open (R77). -/
def opLowField (cmd : CmdWord) : BitVec 2 := cmd.extractLsb' 0 2
/-- `DIN = cmd[10:3]` (R71). -/
def dinField (cmd : CmdWord) : Byte := cmd.extractLsb' 3 8
/-- `DEGREE = cmd[16:11]` (R71). -/
def degreeField (cmd : CmdWord) : DegreeBits := cmd.extractLsb' 11 6
/-- `REF_IN = cmd[17]` (R71). -/
def refInField (cmd : CmdWord) : Bool := cmd.getLsbD 17
/-- `REF_OUT = cmd[18]` (R71). -/
def refOutField (cmd : CmdWord) : Bool := cmd.getLsbD 18
/-- `POLY = cmd[63:32]` (R71). -/
def polyField (cmd : CmdWord) : Word := cmd.extractLsb' 32 32
/-- `INIT = cmd[95:64]` (R71). -/
def initField (cmd : CmdWord) : Word := cmd.extractLsb' 64 32
/-- `XOR_OUT = cmd[127:96]` (R71). -/
def xorOutField (cmd : CmdWord) : Word := cmd.extractLsb' 96 32

/-- `DEGREES`, the set of legal degrees (R7). -/
def degrees : List Nat := [4, 5, 7, 8, 15, 16, 24, 32]

/-- The degree is one of the eight legal ones (R7, R171 condition 1). -/
def legalDegree (degree : DegreeBits) : Bool := degrees.contains degree.toNat

/-- No bit of `v` at or above `deg` is set; empty for `deg = 32`, where no shift is used (R171 condition 2). -/
def inRange (deg : Nat) (v : Word) : Bool := if deg < 32 then v >>> deg == 0#32 else true

/-- `ValidConfig(degree, poly, init, xor_out)` (R171, R172). -/
def validConfig (degree : DegreeBits) (poly init xorOut : Word) : Bool :=
  legalDegree degree && inRange degree.toNat poly && inRange degree.toNat init && inRange degree.toNat xorOut

end Sys2Proof.Machine
end

