-- ==== Sys2Proof/Config.lean ====
section
/-! DEFINITION. The free values of the model: constants with no body, so that nothing can prove what they are.
They stand where the spec says that a register or column holds no value a model may rely on
(spec/10_state.md R37, R42, R43; spec/93_implementation_defined.md V1, V3), and for the undefined result of a bit access
outside the container (spec/40_bitvector.md R95; spec/93_implementation_defined.md U1). -/

namespace Sys2Proof

/-- `GEN` after the `n`-th reset: unspecified (R42, R43); assumption log 1. -/
opaque Config.resetGen : Nat → Word
/-- `DEGREE` after the `n`-th reset: unspecified, any 6-bit value (R42, R43); assumption log 1. -/
opaque Config.resetDegree : Nat → DegreeBits
/-- `POLY` after the `n`-th reset: unspecified (R42, R43); assumption log 1. -/
opaque Config.resetPoly : Nat → Word
/-- `INIT` after the `n`-th reset: unspecified (R42, R43); assumption log 1. -/
opaque Config.resetInit : Nat → Word
/-- `REF_IN` after the `n`-th reset: unspecified (R42, R43); assumption log 1. -/
opaque Config.resetRefIn : Nat → Bool
/-- `REF_OUT` after the `n`-th reset: unspecified (R42, R43); assumption log 1. -/
opaque Config.resetRefOut : Nat → Bool
/-- `XOR_OUT` after the `n`-th reset: unspecified (R42, R43); assumption log 1. -/
opaque Config.resetXorOut : Nat → Word
/-- `RESULT` after the `n`-th reset: unspecified (R42, R43); assumption log 1. -/
opaque Config.resetResult : Nat → Word
/-- `H1[0..7]` after the `n`-th reset: unspecified (R42, R43); assumption log 1. -/
opaque Config.resetH1 : Nat → Vector Word 8
/-- `H2` after the `n`-th reset: unspecified, any number of columns (R42, R43); assumption log 1. -/
opaque Config.resetH2 : Nat → List Word
/-- What stands at a column of `H2` that is no architectural state: no defined value (R37, V3); assumption log 3. -/
opaque Config.absentColumn : Nat → Word

/-- A bit read from a BitVector at an index outside 0..31: undefined (R95, U1); assumption log 8. -/
opaque Config.bitOutside : Word → Int → Bool
/-- The BitVector left by writing a bit at an index of 32 or more: undefined (R95, U1); assumption log 8. -/
opaque Config.vectorOutside : Word → Nat → Bool → Word
/-- `1 << n` for `n` of 32 or more: not defined (R13, R95); assumption log 8. -/
opaque Config.unitOutside : Nat → Word

end Sys2Proof
end

