-- ==== Sys2Proof/Syntax.lean ====
section
/-! DEFINITION. The instructions: one constructor per row of spec/opcode_table.json.
The first five are the command words of the port (spec/30_encoding.md R73, R77, R85); the other twelve are the internal
combinational functions, which have no opcode and take all their operands explicitly (R85; spec/00_scope.md R18). -/

namespace Sys2Proof

inductive Instr where
  /-- `NOP` (R146). -/
  | nop
  /-- `CFG deg, poly, init, refin, refout, xorout` (R150); any field value can be written (R78). -/
  | cfg (degree : DegreeBits) (poly init : Word) (refIn refOut : Bool) (xorOut : Word)
  /-- `DATA din` (R153). -/
  | data (din : Byte)
  /-- `FIN` (R156). -/
  | fin
  /-- A reserved opcode: `cmd[2] = 1`, `cmd[1:0] = low` (R77, R158). -/
  | reserved (low : BitVec 2)
  /-- `Get(v)` (R91). -/
  | get (v : Word)
  /-- `Set(value)` (R92). -/
  | set (value : Word)
  /-- `GetBit(v, idx)` (R93). -/
  | getBit (v : Word) (i : BitIndex)
  /-- `SetBit(v, idx, b)` (R94). -/
  | setBit (v : Word) (i : BitIndex) (b : Bool)
  /-- `Serial(prev, din; poly, deg)` (R100). -/
  | serial (prev : Word) (din : Bool) (poly : Word) (deg : DegreeBits)
  /-- `Parallel(n, data, init; poly, deg)` (R104). -/
  | parallel (n : Nat) (data init poly : Word) (deg : DegreeBits)
  /-- `BuildH1(poly, deg)` (R111). -/
  | buildH1 (poly : Word) (deg : DegreeBits)
  /-- `BuildH2(poly, deg)` (R113). -/
  | buildH2 (poly : Word) (deg : DegreeBits)
  /-- `Rev8(b)` (R120). -/
  | rev8 (b : Byte)
  /-- `Fold(gen, byte; H1, H2, deg, ref_in)` (R124). -/
  | fold (gen : Word) (byte : Byte) (h1 : Vector Word 8) (h2 : List Word) (deg : DegreeBits) (refIn : Bool)
  /-- `RevN(v; deg)` (R136). -/
  | revN (v : Word) (deg : DegreeBits)
  /-- `Finalize(gen; deg, ref_out, xor_out)` (R139). -/
  | finalize (gen : Word) (deg : DegreeBits) (refOut : Bool) (xorOut : Word)
  deriving DecidableEq, Repr

/-- The five rows that a command word can encode; the others are internal functions (R85). -/
def Instr.isCommand : Instr → Bool
  | .nop => true
  | .cfg _ _ _ _ _ _ => true
  | .data _ => true
  | .fin => true
  | .reserved _ => true
  | .get _ => false
  | .set _ => false
  | .getBit _ _ => false
  | .setBit _ _ _ => false
  | .serial _ _ _ _ => false
  | .parallel _ _ _ _ _ => false
  | .buildH1 _ _ => false
  | .buildH2 _ _ => false
  | .rev8 _ => false
  | .fold _ _ _ _ _ _ => false
  | .revN _ _ => false
  | .finalize _ _ _ _ => false

end Sys2Proof
end

