-- ==== Sys2Proof/WellFormed.lean ====
section
/-! DEFINITION. Which instructions the spec gives operands for. Every command is well formed whatever its fields: a `CFG`
with illegal values is a well-formed word that the engine rejects (spec/30_encoding.md R78). An internal function is well
formed on the operand domain its rule names: a degree of `DEGREES`, a valid `poly` for matrix construction, exactly `deg`
columns of `H2` (spec/41_lfsr.md R100; spec/42_matrix.md R111, R113; spec/43_fold.md R124). -/

namespace Sys2Proof

open Sys2Proof.Machine

def Instr.wellFormed : Instr → Bool
  | .nop => true
  | .cfg _ _ _ _ _ _ => true
  | .data _ => true
  | .fin => true
  | .reserved _ => true
  | .get _ => true
  | .set _ => true
  | .getBit _ _ => true
  | .setBit _ _ _ => true
  | .serial _ _ _ deg => legalDegree deg
  | .parallel _ _ _ _ deg => legalDegree deg
  | .buildH1 poly deg => legalDegree deg && inRange deg.toNat poly
  | .buildH2 poly deg => legalDegree deg && inRange deg.toNat poly
  | .rev8 _ => true
  | .fold _ _ _ h2 deg _ => legalDegree deg && h2.length == deg.toNat
  | .revN _ deg => legalDegree deg
  | .finalize _ deg _ _ => legalDegree deg

end Sys2Proof
end

