-- ==== Sys2Proof/Decode.lean ====
section
/-! DEFINITION. Decoding a command word and encoding a command (spec/30_encoding.md R70 to R79, R83, R85).
Decoding is total on 128-bit words: every word is one of the four commands or a reserved opcode, by name (R73). -/

namespace Sys2Proof

open Sys2Proof.Machine

/-- The command that the word `cmd` stands for. Only `cmd[2:0]` selects it (R73); ignored bits are read by no arm (R76). -/
def decode (cmd : CmdWord) : Instr :=
  if opField cmd = 0b000#3 then .nop
  else if opField cmd = 0b001#3 then
    .cfg (degreeField cmd) (polyField cmd) (initField cmd) (refInField cmd) (refOutField cmd) (xorOutField cmd)
  else if opField cmd = 0b010#3 then .data (dinField cmd)
  else if opField cmd = 0b011#3 then .fin
  else .reserved (opLowField cmd)

/-- A field's value at the bits from `lo` up, every other bit 0 (R71). -/
def place {n : Nat} (v : BitVec n) (lo : Nat) : CmdWord := v.zeroExtend 128 <<< lo

/-- The canonical word of a command: each field of R71 at its place, every ignored bit 0 (R83).
An internal function has no encoding (R85). -/
def encode : Instr → Option CmdWord
  | .nop => some 0#128
  | .cfg degree poly init refIn refOut xorOut =>
    some (place xorOut 96 ||| place init 64 ||| place poly 32 ||| place (BitVec.ofBool refOut) 18 |||
      place (BitVec.ofBool refIn) 17 ||| place degree 11 ||| 1#128)
  | .data din => some (place din 3 ||| 2#128)
  | .fin => some 3#128
  | .reserved low => some (4#128 ||| place low 0)
  | .get _ => none
  | .set _ => none
  | .getBit _ _ => none
  | .setBit _ _ _ => none
  | .serial _ _ _ _ => none
  | .parallel _ _ _ _ _ => none
  | .buildH1 _ _ => none
  | .buildH2 _ _ => none
  | .rev8 _ => none
  | .fold _ _ _ _ _ _ => none
  | .revN _ _ => none
  | .finalize _ _ _ _ => none

/-- The bits of the word `cmd` that its command reads (R72, R76). -/
def readBits (cmd : CmdWord) : CmdWord :=
  if opField cmd = 0b001#3 then 0xFFFFFFFF_FFFFFFFF_FFFFFFFF_0007F807#128
  else if opField cmd = 0b010#3 then 0x7FF#128
  else 0x7#128

/-- The 128-bit word whose low `nbits` bits are those of `w` and whose other bits are 0; none for more bits than a
command word has (R79). -/
def tableWord (nbits w : Nat) : Option CmdWord :=
  if nbits ≤ 128 then some (BitVec.ofNat 128 (w % 2 ^ nbits)) else none

/-- The instruction this decoder reads from an instruction whose low `nbits` bits are `w`, bit 0 being `cmd[0]`. -/
def decodeTableWord (nbits w : Nat) : Option Instr := (tableWord nbits w).map decode

end Sys2Proof
end

