-- ==== Sys2Proof/Machine/BitVectorUnit.lean ====
section
/-! DEFINITION. The BitVector unit (spec/40_bitvector.md R90 to R97) and the loops over bits that the other units are
written with (spec/00_scope.md R13, R17). -/

namespace Sys2Proof.Machine

/-- `mask(n)`: bits `0..n-1` set and the rest clear, for `1 ≤ n ≤ 32` (R13). -/
def mask (n : Nat) : Word := 0xFFFFFFFF#32 >>> (32 - n)

/-- `unit(n) = 1 << n` for `0 ≤ n ≤ 31` (R13). -/
def unit (n : BitIndex) : Word := 1#32 <<< n.val

/-- `Get(v)`: the raw value (R91). -/
def bvGet (v : Word) : Word := v

/-- `Set(value)`: the BitVector whose raw value is `value`, all 32 bits replaced (R92). -/
def bvSet (value : Word) : Word := value

/-- `GetBit(v, idx)`: `(v >> idx) & 1` (R93). -/
def getBit (v : Word) (i : BitIndex) : Bool := (v >>> i.val) &&& 1#32 == 1#32

/-- `SetBit(v, idx, b)`: OR with `1 << idx`, or AND-NOT with it (R94). -/
def setBit (v : Word) (i : BitIndex) (b : Bool) : Word := if b then v ||| unit i else v &&& ~~~(unit i)

/-- `v[n]` at a loop's index `n`. An index of 32 or more cannot be presented under a legal degree; where operands no
command presents would reach one, the bit is a free value (R95). -/
def bitAt (v : Word) (n : Nat) : Bool := if h : n < 32 then getBit v ⟨n, h⟩ else Config.bitOutside v n

/-- `v[deg-1]`, the top bit; for `deg = 0` there is no such index, and the bit is a free value (R95). -/
def topBit (v : Word) (deg : Nat) : Bool :=
  match deg with
  | 0 => Config.bitOutside v (-1)
  | k + 1 => bitAt v k

/-- `v[n] = b` at a loop's index `n`; at an index of 32 or more the vector left is a free value (R95). -/
def setBitAt (v : Word) (n : Nat) (b : Bool) : Word :=
  if h : n < 32 then setBit v ⟨n, h⟩ b else Config.vectorOutside v n b

/-- `unit(n)` at a loop's index `n`; for `n` of 32 or more it is not defined, and is a free value (R13, R95). -/
def unitAt (n : Nat) : Word := if h : n < 32 then unit ⟨n, h⟩ else Config.unitOutside n

/-- A fresh BitVector (R96) whose bits `0..n-1` are then set by `for i in 0..n-1: r[i] = f i` (R17). -/
def fillBits (n : Nat) (f : Nat → Bool) : Word :=
  match n with
  | 0 => 0#32
  | k + 1 => setBitAt (fillBits k f) k (f k)

/-- Bit `j` of a message byte (R12). -/
def byteBit (b : Byte) (j : ByteIndex) : Bool := b.getLsbD j.val

/-- The byte whose bit `d` is `f d`, for `d = 0..7` (R17). -/
def fillByte (f : ByteIndex → Bool) : Byte := BitVec.ofBoolListLE [f 0, f 1, f 2, f 3, f 4, f 5, f 6, f 7]

/-- `XOR_{j in 0..n-1, sel j} e j`; 0 over the empty set (R13). -/
def xorOver (n : Nat) (sel e : Nat → Bool) : Bool :=
  match n with
  | 0 => false
  | k + 1 => if sel k then xorOver k sel e ^^ e k else xorOver k sel e

end Sys2Proof.Machine
end

