-- ==== Sys2Proof/Machine/FinalizeUnit.lean ====
section
/-! DEFINITION. The output bit-reversal unit and the XOR mask unit (spec/44_finalize.md R135 to R140). -/

namespace Sys2Proof.Machine

/-- `RevN(v; deg)`: reversal of the low `deg` bits, bit `d` ↔ bit `deg-1-d` (R136). -/
def revN (v : Word) (deg : Nat) : Word := fillBits deg fun d => bitAt v (deg - 1 - d)

/-- Output selection: `GEN`, reversed when `REF_OUT` is 1 (R137). -/
def outputSelect (refOut : Bool) (gen : Word) (deg : Nat) : Word := if refOut then revN gen deg else gen

/-- `Finalize(gen; deg, ref_out, xor_out)`: reversal first, then the XOR mask (R135, R138, R139). -/
def finalize (gen : Word) (deg : Nat) (refOut : Bool) (xorOut : Word) : Word :=
  outputSelect refOut gen deg ^^^ xorOut

end Sys2Proof.Machine
end

