-- ==== Sys2Proof/Machine/State.lean ====
section
/-! DEFINITION. The state of one engine instance (spec/10_state.md R20 to R45), the response codes (spec/30_encoding.md
R80) and what the host does at the engine's inputs (spec/30_encoding.md R81; spec/70_reset_and_hazards.md R199), as plain
data; and the state right after reset. -/

namespace Sys2Proof.Machine

/-- The response code of a completed command; code 3 is never produced (R80, R177). -/
inductive Rsp where
  /-- `00`: the command was accepted and took effect. -/
  | ok
  /-- `01`: a `CFG` was rejected. -/
  | invalidConfiguration
  /-- `10`: a `DATA`, `FIN` or reserved opcode was refused. -/
  | protocolError
  deriving DecidableEq, Repr

/-- The two error classes a command can raise (R170). -/
inductive ErrorClass where
  | invalidConfiguration
  | protocolError
  deriving DecidableEq, Repr

/-- The `STATUS` register: four flags, written by commands and reset only (R31). -/
structure Status where
  /-- Bit 0, `CFG_VALID` (R32). -/
  cfgValid : Bool
  /-- Bit 1, `DONE` (R33). -/
  done : Bool
  /-- Bit 2, `ERR_CFG` (R34). -/
  errCfg : Bool
  /-- Bit 3, `ERR_PROTO` (R35). -/
  errProto : Bool
  deriving DecidableEq, Repr

/-- One thing the host does at the engine's inputs (R81, R199). -/
inductive HostInput where
  /-- No command is issued for a while (R187, R199). -/
  | idle
  /-- `cmd_valid` and `cmd_ready` are 1 with this word on `cmd`: the command is issued (R81). -/
  | command (cmd : CmdWord)
  /-- `rst` is asserted between commands (R190). -/
  | reset
  /-- `rst` arrives while this command is executing, which abandons it (R191). -/
  | resetDuring (cmd : CmdWord)
  deriving DecidableEq, Repr

/-- The value at the output of an internal combinational unit (R85). -/
inductive UnitValue where
  /-- A bit: `GetBit`. -/
  | bit (b : Bool)
  /-- A byte: `Rev8`. -/
  | byte (b : Byte)
  /-- A BitVector: `Get`, `Set`, `SetBit`, `Serial`, `Parallel`, `Fold`, `RevN`, `Finalize`. -/
  | vector (v : Word)
  /-- The 8 columns of `BuildH1`. -/
  | columns8 (cols : Vector Word 8)
  /-- The `deg` columns of `BuildH2`. -/
  | columns (cols : List Word)
  deriving DecidableEq, Repr

/-- The whole state of one engine instance: the registers of R20, the response output of R81, and three fields of the
model's own (`pending`, `resetCount`, `unitOut`; assumption log 1, 4, 5). -/
structure State where
  /-- `GEN`, the running CRC state (R21). -/
  gen : Word
  /-- `DEGREE` (R24). -/
  degree : DegreeBits
  /-- `POLY` (R25). -/
  poly : Word
  /-- `INIT` (R26). -/
  init : Word
  /-- `REF_IN` (R27). -/
  refIn : Bool
  /-- `REF_OUT` (R28). -/
  refOut : Bool
  /-- `XOR_OUT` (R29). -/
  xorOut : Word
  /-- `RESULT` (R30). -/
  result : Word
  /-- `STATUS` (R31 to R35). -/
  status : Status
  /-- `H1[0..7]` (R36). -/
  h1 : Vector Word 8
  /-- `H2[0..deg-1]` (R37). -/
  h2 : List Word
  /-- `rsp` with `rsp_valid`: the response of the last completed command, none before any (R81, R191). -/
  rsp : Option Rsp
  /-- What the host does next at the inputs, in issue order (R23, R60); the model's own field. -/
  pending : List HostInput
  /-- How many resets there have been before this one; it picks the unspecified values; the model's own field. -/
  resetCount : Nat
  /-- The output of the internal unit last exercised singly; the model's own field. -/
  unitOut : Option UnitValue
  deriving DecidableEq, Repr

/-- Faults. There is none: the spec gives every command word in every state an outcome (R145, R182), and an error is
recorded in `STATUS` and `rsp` (R180), which is a next state. -/
inductive Fault where
  deriving DecidableEq, Repr

/-- Refusals. -/
inductive Refusal where
  /-- Raised only by an arm of `exec` for an instruction without a meaning; no arm raises it now. Safe: the run stops. -/
  | notModelled (mnemonic : String)
  deriving DecidableEq, Repr

/-- `STATUS = 0b0000` (R42, R190). -/
def Status.cleared : Status := { cfgValid := false, done := false, errCfg := false, errProto := false }

/-- The state after the reset numbered `n`: `STATUS` cleared, no response owed, every other register unspecified
(R42, R190, R191), with `pending` still to come from the host. -/
def State.atReset (n : Nat) (pending : List HostInput) : State where
  gen := Config.resetGen n
  degree := Config.resetDegree n
  poly := Config.resetPoly n
  init := Config.resetInit n
  refIn := Config.resetRefIn n
  refOut := Config.resetRefOut n
  xorOut := Config.resetXorOut n
  result := Config.resetResult n
  status := Status.cleared
  h1 := Config.resetH1 n
  h2 := Config.resetH2 n
  rsp := none
  pending := pending
  resetCount := n
  unitOut := none

/-- The engine right after reset, waiting for commands (R190, R192). -/
def State.reset : State := State.atReset 0 []

end Sys2Proof.Machine
end

