-- ==== Sys2Proof/Machine/Flags.lean ====
section
/-! DEFINITION. What commands do to the four `STATUS` flags (spec/10_state.md R31 to R35; spec/60_exceptions.md R173,
R176). -/

namespace Sys2Proof.Machine

/-- An accepted `CFG`: `CFG_VALID <- 1`, `DONE <- 0` (R150). -/
def Status.afterCfg (st : Status) : Status := { st with cfgValid := true, done := false }

/-- An accepted `DATA`: `DONE <- 0` (R153). -/
def Status.afterData (st : Status) : Status := { st with done := false }

/-- An accepted `FIN`: `DONE <- 1` (R156). -/
def Status.afterFin (st : Status) : Status := { st with done := true }

/-- The flag writes of a raised error: R173 for InvalidConfiguration, R176 for ProtocolError. -/
def Status.afterError (st : Status) : ErrorClass → Status
  | .invalidConfiguration => { st with cfgValid := false, done := false, errCfg := true }
  | .protocolError => { st with errProto := true }

/-- `STATUS` as the 4-bit number the `status` port shows: bit 0 `CFG_VALID` up to bit 3 `ERR_PROTO` (R31). -/
def Status.bits (st : Status) : BitVec 4 :=
  BitVec.ofBool st.errProto ++ BitVec.ofBool st.errCfg ++ BitVec.ofBool st.done ++ BitVec.ofBool st.cfgValid

end Sys2Proof.Machine
end

