-- ==== Sys2Proof/Machine/FoldUnit.lean ====
section
/-! DEFINITION. The input bit-reversal unit and the per-byte fold datapath (spec/43_fold.md R120 to R131). -/

namespace Sys2Proof.Machine

/-- `Rev8(b)`: bit `7-d` moved to position `d` (R120). -/
def rev8 (b : Byte) : Byte := fillByte fun d => byteBit b d.rev

/-- The byte that enters the fold (R121). -/
def inputByte (refIn : Bool) (byte : Byte) : Byte := if refIn then rev8 byte else byte

/-- Column `c` of `H2`; a column beyond the list is no architectural state and has no defined value (R37). -/
def h2At (h2 : List Word) (c : Nat) : Word := (h2[c]?).getD (Config.absentColumn c)

/-- The H1 row vector `r1_i`: `r1_i[c] = H1[c][i]` (R122). -/
def rowH1 (h1 : Vector Word 8) (i : Nat) : Byte := fillByte fun c => bitAt h1[c] i

/-- The H2 row vector `r2_i`: `r2_i[c] = H2[c][i]` for `c = 0..deg-1` (R123). -/
def rowH2 (h2 : List Word) (deg i : Nat) : Word := fillBits deg fun c => bitAt (h2At h2 c) i

/-- Data contribution to output bit `i` (R122). -/
def dataContribution (h1 : Vector Word 8) (rev : Byte) (i : Nat) : Bool :=
  xorOver 8 (fun j => (rowH1 h1 i).getLsbD j) (fun j => rev.getLsbD j)

/-- State contribution to output bit `i` (R123). -/
def stateContribution (h2 : List Word) (deg : Nat) (gen : Word) (i : Nat) : Bool :=
  xorOver deg (fun j => bitAt (rowH2 h2 deg i) j) (fun j => bitAt gen j)

/-- `Fold(gen, byte; H1, H2, deg, ref_in)` (R124). -/
def fold (gen : Word) (byte : Byte) (h1 : Vector Word 8) (h2 : List Word) (deg : Nat) (refIn : Bool) : Word :=
  fillBits deg fun i =>
    dataContribution h1 (inputByte refIn byte) i ^^ stateContribution h2 deg gen i

end Sys2Proof.Machine
end

