-- ==== Sys2Proof/Machine/LfsrUnit.lean ====
section
/-! DEFINITION. The LFSR step unit (spec/41_lfsr.md R100 to R108). `poly` and `deg` are explicit parameters (R18). -/

namespace Sys2Proof.Machine

/-- `Serial(prev, din; poly, deg)`: one Galois-LFSR clock, bit by bit from the old `prev` (R100, R103). Bit 0 is assigned
first and whatever the degree, as in the pseudocode; then bits `1..deg-1`. -/
def serial (prev : Word) (din : Bool) (poly : Word) (deg : Nat) : Word :=
  let top := topBit prev deg
  fillBits (deg - 1 + 1) fun i =>
    if i = 0 then din ^^ (bitAt poly i && top)
    else bitAt prev (i - 1) ^^ (bitAt poly i && top)

/-- The bit that clock `i` (numbered from 1) injects: `data[i]` if `i < 8`, else 0 (R104). -/
def injected (data : Word) (i : Nat) : Bool := if i < 8 then bitAt data i else false

/-- `Parallel(n, data, init; poly, deg)`: `n` serial clocks in sequence (R104). -/
def parallel (n : Nat) (data init poly : Word) (deg : Nat) : Word :=
  match n with
  | 0 => init
  | k + 1 => serial (parallel k data init poly deg) (injected data (k + 1)) poly deg

end Sys2Proof.Machine
end

