-- ==== Sys2Proof/Machine/MatrixUnit.lean ====
section
/-! DEFINITION. The matrix construction unit (spec/42_matrix.md R110 to R119); `data` of `Parallel` is tied to 0
(spec/41_lfsr.md R105). -/

namespace Sys2Proof.Machine

/-- Column `n` of `H1`: `Parallel(n, 0, poly)` (R111). -/
def h1Column (poly : Word) (deg : Nat) (n : ByteIndex) : Word := parallel n.val 0#32 poly poly deg

/-- `BuildH1(poly, deg)`: always 8 columns (R111). -/
def buildH1 (poly : Word) (deg : Nat) : Vector Word 8 := Vector.ofFn (h1Column poly deg)

/-- Column `n` of `H2`: `Parallel(8, 0, unit(n))` (R113). -/
def h2Column (poly : Word) (deg : Nat) (n : Nat) : Word := parallel 8 0#32 (unitAt n) poly deg

/-- `BuildH2(poly, deg)`: exactly `deg` columns (R113, R37). -/
def buildH2 (poly : Word) (deg : Nat) : List Word := (List.range deg).map (h2Column poly deg)

end Sys2Proof.Machine
end

