-- ==== Sys2Proof/Machine/Ops.lean ====
section
/-! DEFINITION. The named operations over the state: the register writes of each accepted command, raising an error,
reset, taking the host's next input. All writes of one operation happen together, from the state before it
(spec/00_scope.md R14). -/

namespace Sys2Proof.Machine

/-- The response code of an error class (R177). -/
def ErrorClass.rsp : ErrorClass → Rsp
  | .invalidConfiguration => .invalidConfiguration
  | .protocolError => .protocolError

/-- The two bits of `rsp` (R80). -/
def Rsp.code : Rsp → BitVec 2
  | .ok => 0b00#2
  | .invalidConfiguration => 0b01#2
  | .protocolError => 0b10#2

/-- The configured degree as a number (R24). -/
def State.deg (s : State) : Nat := s.degree.toNat

/-- `rsp <- 0` and nothing else (R146). -/
def State.respondOk (s : State) : State := { s with rsp := some .ok }

/-- RAISING AN ERROR, the engine's only exception: record it in `STATUS`, answer its code, and write nothing else. There
is no vector, no saved state, no mode change and no return from it (R16, R173, R176, R180, R181). -/
def State.raise (s : State) (e : ErrorClass) : State :=
  { s with status := s.status.afterError e, rsp := some e.rsp }

/-- The writes of an accepted `CFG` (R150): the descriptor, both matrices, `GEN`, `RESULT`, two flags, `rsp`. -/
def State.configure (s : State) (degree : DegreeBits) (poly init : Word) (refIn refOut : Bool) (xorOut : Word) : State :=
  { s with
    degree := degree
    poly := poly
    init := init
    refIn := refIn
    refOut := refOut
    xorOut := xorOut
    h1 := buildH1 poly degree.toNat
    h2 := buildH2 poly degree.toNat
    gen := init
    result := init
    status := s.status.afterCfg
    rsp := some .ok }

/-- The writes of an accepted `DATA` (R153, R128). -/
def State.foldByte (s : State) (din : Byte) : State :=
  { s with
    gen := fold s.gen din s.h1 s.h2 s.deg s.refIn
    status := s.status.afterData
    rsp := some .ok }

/-- The writes of an accepted `FIN` (R156). -/
def State.finish (s : State) : State :=
  { s with
    result := finalize s.gen s.deg s.refOut s.xorOut
    status := s.status.afterFin
    rsp := some .ok }

/-- An internal function exercised singly: its value at the unit's output, and no register of the engine written
(R18, R85: a pure function, flags written none, exceptions none). -/
def State.deliver (s : State) (v : UnitValue) : State := { s with unitOut := some v }

/-- A reset: the reset state, with new unspecified values; what the host does after it is still to come (R190, R191). -/
def State.applyReset (s : State) : State := State.atReset (s.resetCount + 1) s.pending

/-- The host's next input, with the state from which it is already taken; none when the host does nothing more (R60). -/
def State.nextInput (s : State) : Option (HostInput × State) :=
  match s.pending with
  | [] => none
  | input :: rest => some (input, { s with pending := rest })

/-- The host issues the word `cmd` before everything else it was about to do. -/
def State.issue (s : State) (cmd : CmdWord) : State := { s with pending := .command cmd :: s.pending }

end Sys2Proof.Machine
end

