-- ==== Sys2Proof/Machine/Commands.lean ====
section
/-! DEFINITION. The meanings of the host commands and of the reserved opcodes (spec/45_commands.md R145 to R158). -/

namespace Sys2Proof.Machine

/-- `NOP`: no state change, `rsp <- 0`, in any state (R146). -/
def execNop (s : State) : Host.Outcome State Fault Refusal := .next s.respondOk

/-- `CFG`: the range check before any write, then the whole configuration (R150); otherwise InvalidConfiguration
(R171, R173). It reads no prior state but the sticky flags it keeps. -/
def execCfg (degree : DegreeBits) (poly init : Word) (refIn refOut : Bool) (xorOut : Word) (s : State) :
    Host.Outcome State Fault Refusal :=
  if validConfig degree poly init xorOut then .next (s.configure degree poly init refIn refOut xorOut)
  else .next (s.raise .invalidConfiguration)

/-- `DATA`: fold one byte (R153); ProtocolError while unconfigured (R175 a). -/
def execData (din : Byte) (s : State) : Host.Outcome State Fault Refusal :=
  if s.status.cfgValid then .next (s.foldByte din) else .next (s.raise .protocolError)

/-- `FIN`: finalize (R156); ProtocolError while unconfigured (R175 b). -/
def execFin (s : State) : Host.Outcome State Fault Refusal :=
  if s.status.cfgValid then .next s.finish else .next (s.raise .protocolError)

/-- A reserved opcode: ProtocolError in every state, whatever its low bits (R77, R158, R175 c). -/
def execReserved (_low : BitVec 2) (s : State) : Host.Outcome State Fault Refusal := .next (s.raise .protocolError)

end Sys2Proof.Machine
end

