-- ==== Sys2Proof/Machine/Units.lean ====
section
/-! DEFINITION. The meanings of the twelve internal functions, each exercised singly on explicit operands: the function's
value at the unit's output, nothing else written (spec/30_encoding.md R85; spec/00_scope.md R18). -/

namespace Sys2Proof.Machine

/-- `Get` (R91). -/
def execGet (v : Word) (s : State) : Host.Outcome State Fault Refusal := .next (s.deliver (.vector (bvGet v)))

/-- `Set` (R92). -/
def execSet (value : Word) (s : State) : Host.Outcome State Fault Refusal := .next (s.deliver (.vector (bvSet value)))

/-- `GetBit` (R93). -/
def execGetBit (v : Word) (i : BitIndex) (s : State) : Host.Outcome State Fault Refusal :=
  .next (s.deliver (.bit (getBit v i)))

/-- `SetBit` (R94). -/
def execSetBit (v : Word) (i : BitIndex) (b : Bool) (s : State) : Host.Outcome State Fault Refusal :=
  .next (s.deliver (.vector (setBit v i b)))

/-- `Serial` (R100). -/
def execSerial (prev : Word) (din : Bool) (poly : Word) (deg : DegreeBits) (s : State) :
    Host.Outcome State Fault Refusal :=
  .next (s.deliver (.vector (serial prev din poly deg.toNat)))

/-- `Parallel` (R104). -/
def execParallel (n : Nat) (data init poly : Word) (deg : DegreeBits) (s : State) :
    Host.Outcome State Fault Refusal :=
  .next (s.deliver (.vector (parallel n data init poly deg.toNat)))

/-- `BuildH1` (R111). -/
def execBuildH1 (poly : Word) (deg : DegreeBits) (s : State) : Host.Outcome State Fault Refusal :=
  .next (s.deliver (.columns8 (buildH1 poly deg.toNat)))

/-- `BuildH2` (R113). -/
def execBuildH2 (poly : Word) (deg : DegreeBits) (s : State) : Host.Outcome State Fault Refusal :=
  .next (s.deliver (.columns (buildH2 poly deg.toNat)))

/-- `Rev8` (R120). -/
def execRev8 (b : Byte) (s : State) : Host.Outcome State Fault Refusal := .next (s.deliver (.byte (rev8 b)))

/-- `Fold` (R124). -/
def execFold (gen : Word) (byte : Byte) (h1 : Vector Word 8) (h2 : List Word) (deg : DegreeBits) (refIn : Bool)
    (s : State) : Host.Outcome State Fault Refusal :=
  .next (s.deliver (.vector (fold gen byte h1 h2 deg.toNat refIn)))

/-- `RevN` (R136). -/
def execRevN (v : Word) (deg : DegreeBits) (s : State) : Host.Outcome State Fault Refusal :=
  .next (s.deliver (.vector (revN v deg.toNat)))

/-- `Finalize` (R139). -/
def execFinalize (gen : Word) (deg : DegreeBits) (refOut : Bool) (xorOut : Word) (s : State) :
    Host.Outcome State Fault Refusal :=
  .next (s.deliver (.vector (finalize gen deg.toNat refOut xorOut)))

end Sys2Proof.Machine
end

