-- ==== Sys2Proof/Machine/Dispatch.lean ====
section
/-! DEFINITION. One arm per constructor of `Instr` (spec/opcode_table.json), each a direct call of its meaning. -/

namespace Sys2Proof.Machine

/-- The meaning of an instruction (R145). -/
def exec (i : Instr) (s : State) : Host.Outcome State Fault Refusal :=
  match i with
  | .nop => Sys2Proof.Machine.execNop s
  | .cfg degree poly init refIn refOut xorOut => Sys2Proof.Machine.execCfg degree poly init refIn refOut xorOut s
  | .data din => Sys2Proof.Machine.execData din s
  | .fin => Sys2Proof.Machine.execFin s
  | .reserved low => Sys2Proof.Machine.execReserved low s
  | .get v => Sys2Proof.Machine.execGet v s
  | .set value => Sys2Proof.Machine.execSet value s
  | .getBit v k => Sys2Proof.Machine.execGetBit v k s
  | .setBit v k b => Sys2Proof.Machine.execSetBit v k b s
  | .serial prev din poly deg => Sys2Proof.Machine.execSerial prev din poly deg s
  | .parallel n data init poly deg => Sys2Proof.Machine.execParallel n data init poly deg s
  | .buildH1 poly deg => Sys2Proof.Machine.execBuildH1 poly deg s
  | .buildH2 poly deg => Sys2Proof.Machine.execBuildH2 poly deg s
  | .rev8 b => Sys2Proof.Machine.execRev8 b s
  | .fold gen byte h1 h2 deg refIn => Sys2Proof.Machine.execFold gen byte h1 h2 deg refIn s
  | .revN v deg => Sys2Proof.Machine.execRevN v deg s
  | .finalize gen deg refOut xorOut => Sys2Proof.Machine.execFinalize gen deg refOut xorOut s

end Sys2Proof.Machine
end

