-- ==== Sys2Proof/Machine/Step.lean ====
section
/-! DEFINITION. One step: the engine takes the host's next input (spec/45_commands.md R145; spec/20_memory.md R60). There
is no program counter and no fetch (spec/10_state.md R23): the order of commands is the order the host issues them in. -/

namespace Sys2Proof.Machine

/-- One step of the engine. A command is decoded and executed as one atomic step; a reset gives the reset state; with
nothing issued the state is held unchanged (R145, R187, R190, R191). -/
def step (s : State) : Host.Outcome State Fault Refusal :=
  match s.nextInput with
  | none => .next s
  | some (.idle, t) => .next t
  | some (.command cmd, t) => exec (decode cmd) t
  | some (.reset, t) => .next t.applyReset
  | some (.resetDuring _, t) => .next t.applyReset

/-- `s` with the host issuing, next, the word whose low `nbits` bits are those of `w`, all others 0. -/
def State.withFetchWord (s : State) (nbits w : Nat) : State :=
  match tableWord nbits w with
  | some cmd => s.issue cmd
  | none => s

end Sys2Proof.Machine
end

