-- ==== Sys2Proof/Machine/Ports.lean ====
section
/-! DEFINITION. What the host can see (spec/30_encoding.md R81; spec/10_state.md R30, R31, R44). Reading a port is a
function of the state and changes nothing (spec/20_memory.md R58). A port whose value the spec leaves open is `none` here:
any value may stand on it and no claim can name one (spec/93_implementation_defined.md V3, V4). -/

namespace Sys2Proof.Machine

/-- `status[3:0]` (R31, R81). -/
def State.statusPort (s : State) : BitVec 4 := s.status.bits

/-- `rsp_valid` and `rsp[1:0]`: none when no response stands (R80, R81). -/
def State.rspPort (s : State) : Option (BitVec 2) := s.rsp.map Rsp.code

/-- `result[31:0]`: register `RESULT` while configured (R30, R81, V4). -/
def State.resultPort (s : State) : Option Word := if s.status.cfgValid then some s.result else none

/-- `gen_o[31:0]` (R44, V4). -/
def State.genPort (s : State) : Option Word := if s.status.cfgValid then some s.gen else none

/-- `h1_o[c][31:0]` (R44, V4). -/
def State.h1Port (s : State) (c : ByteIndex) : Option Word := if s.status.cfgValid then some s.h1[c] else none

/-- `h2_o[c][31:0]`, meaningful only for `c < deg` (R44, V3, V4). -/
def State.h2Port (s : State) (c : BitIndex) : Option Word :=
  if s.status.cfgValid ∧ c.val < s.deg then s.h2[c.val]? else none

end Sys2Proof.Machine
end

