-- ==== Sys2Proof/Machine/System.lean ====
section
/-! DEFINITION. Several engine instances (spec/60_exceptions.md R184; spec/00_scope.md R9): `N_ENGINES` is a parameter, each
instance has its own complete state, and a step of one is a step of no other. -/

namespace Sys2Proof.Machine

/-- A system of `n` engine instances. -/
abbrev System (n : Nat) := Vector State n

/-- Engine `k` takes its next input; every other engine stands still. -/
def System.stepEngine {n : Nat} (sys : System n) (k : Fin n) : Host.Outcome (System n) Fault Refusal :=
  match step sys[k] with
  | .next t => .next (sys.set k.val t)
  | .fault r => .fault r
  | .refused r => .refused r

end Sys2Proof.Machine
end

