-- ==== Sys2Proof/Machine/Transaction.lean ====
section
/-! DEFINITION. `ComputeCRC(descriptor, data)` as a function (spec/45_commands.md R160) and as the commands a host issues
for it (spec/30_encoding.md R84). -/

namespace Sys2Proof.Machine

/-- The configuration record of a `CFG`, the source's descriptor without its label (R71, R5 b). -/
structure Descriptor where
  degree : DegreeBits
  poly : Word
  init : Word
  refIn : Bool
  refOut : Bool
  xorOut : Word
  deriving DecidableEq, Repr

/-- The descriptor passes `ValidConfig` (R171). -/
def Descriptor.valid (d : Descriptor) : Bool := validConfig d.degree d.poly d.init d.xorOut

/-- `g(k+1) = Fold(g(k), m[k])` over a message, in increasing index (R128, R160). -/
def foldMessage (d : Descriptor) (g : Word) : List Byte → Word
  | [] => g
  | b :: rest =>
    foldMessage d (fold g b (buildH1 d.poly d.degree.toNat) (buildH2 d.poly d.degree.toNat) d.degree.toNat d.refIn) rest

/-- `ComputeCRC` (R160). -/
def computeCrc (d : Descriptor) (message : List Byte) : Word :=
  finalize (foldMessage d d.init message) d.degree.toNat d.refOut d.xorOut

/-- The `CFG` of a descriptor. -/
def cfgCommand (d : Descriptor) : Instr := .cfg d.degree d.poly d.init d.refIn d.refOut d.xorOut

/-- `MSG`: one `DATA` per byte in increasing index, nothing for an empty message (R84). -/
def msgCommands (message : List Byte) : List Instr := message.map Instr.data

/-- `COMPUTE`: `CFG`, then `MSG`, then `FIN` (R84, R160). -/
def computeCommands (d : Descriptor) (message : List Byte) : List Instr :=
  cfgCommand d :: (msgCommands message ++ [Instr.fin])

/-- Commands executed one at a time in the order given; a stop ends the run (R60). -/
def execAll : List Instr → State → Host.Outcome State Fault Refusal
  | [], s => .next s
  | i :: rest, s =>
    match exec i s with
    | .next t => execAll rest t
    | .fault r => .fault r
    | .refused r => .refused r

end Sys2Proof.Machine
end

