-- ==== Sys2Proof/Safety.lean ====
section
/-! DEFINITION. What holds of every state the engine can be in: the terms the whole-machine claims use. -/

namespace Sys2Proof.Machine

/-- The width invariant: while configured, the degree is legal, `H2` has exactly `deg` columns, and no register or column
has a bit at or above `deg` (R22, R24, R37, R45). -/
def State.WidthInv (s : State) : Prop :=
  s.status.cfgValid = true →
    legalDegree s.degree = true ∧
    s.h2.length = s.deg ∧
    inRange s.deg s.gen = true ∧ inRange s.deg s.poly = true ∧ inRange s.deg s.init = true ∧
    inRange s.deg s.xorOut = true ∧ inRange s.deg s.result = true ∧
    (∀ c : ByteIndex, inRange s.deg s.h1[c] = true) ∧
    (∀ v ∈ s.h2, inRange s.deg v = true)

/-- While configured, the matrices are those of the configured polynomial and degree (R36, R37, R38). -/
def State.MatrixInv (s : State) : Prop :=
  s.status.cfgValid = true → s.h1 = buildH1 s.poly s.deg ∧ s.h2 = buildH2 s.poly s.deg

/-- `DONE` says that `RESULT` is the check value of the present `GEN`, and only a configured engine is done: the control
state (`CFG_VALID`, `DONE`) = (0, 1) does not occur (R33, R164). -/
def State.DoneInv (s : State) : Prop :=
  s.status.done = true →
    s.status.cfgValid = true ∧ s.result = finalize s.gen s.deg s.refOut s.xorOut

/-- The configuration half of the state is the same: the six descriptor registers and both matrices (R152). -/
def State.SameConfig (s t : State) : Prop :=
  t.degree = s.degree ∧ t.poly = s.poly ∧ t.init = s.init ∧ t.refIn = s.refIn ∧ t.refOut = s.refOut ∧
    t.xorOut = s.xorOut ∧ t.h1 = s.h1 ∧ t.h2 = s.h2

/-- The model's own fields are the same (assumption log 1, 4, 5). -/
def State.SameOwn (s t : State) : Prop :=
  t.pending = s.pending ∧ t.resetCount = s.resetCount ∧ t.unitOut = s.unitOut

/-- `parity(v)`: the XOR of all bits of `v` (R13). -/
def parity {w : Nat} (v : BitVec w) : Bool := (List.range w).foldl (fun a k => a ^^ v.getLsbD k) false

/-- `XOR_{j in 0..n-1, sel j} col j`, the XOR of the selected columns; 0 over the empty set (R13). -/
def xorColumns (n : Nat) (sel : Nat → Bool) (col : Nat → Word) : Word :=
  (List.range n).foldl (fun a j => if sel j then a ^^^ col j else a) 0#32

/-- The one-bit update of R127: a zero-input clock, then `poly` if the message bit is 1. -/
def messageClock (poly : Word) (deg : Nat) (s : Word) (d : Bool) : Word :=
  serial s false poly deg ^^^ (if d then poly else 0#32)

/-- The other form of R127: the message bit XORed into the top state bit, then a zero-input clock. -/
def topBitClock (poly : Word) (deg : Nat) (s : Word) (d : Bool) : Word :=
  serial (s ^^^ (if d then 1#32 <<< (deg - 1) else 0#32)) false poly deg

/-- The bits of a byte as the serial stream takes them: bit 7 first, bit 0 last (R53, R127). -/
def serialBits (rev : Byte) : List Bool := [7, 6, 5, 4, 3, 2, 1, 0].map fun k => rev.getLsbD k

end Sys2Proof.Machine
end

