-- ==== Sys2Proof/Certificates/Slice0/Obligations.lean ====
section
/-! DEFINITION. The statements for the provers, each about every state and every operand the spec's rule is about.
The docstrings name the rules; a statement that rests on a choice of the model's says so and names the log entry. -/

open Sys2Proof Sys2Proof.Machine

/-! ### Encoding (spec/30_encoding.md) -/

/-- R71, R73, R83: words written out from the spec's encodings, canonical and not, decode to what they stand for. -/
def Obligations.SpecWordsDecode : Prop :=
  decode 0x00000000_00000000_00000000_00000000#128 = .nop ∧
  decode 0xFFFFFFFF_FFFFFFFF_FFFFFFFF_FFFFFFF8#128 = .nop ∧
  decode 0x00000000_00000000_00000007_00004001#128 = .cfg 8#6 0x07#32 0#32 false false 0#32 ∧
  decode 0x00000000_00000000_00000007_FFF847F9#128 = .cfg 8#6 0x07#32 0#32 false false 0#32 ∧
  decode 0xFFFFFFFF_FFFFFFFF_04C11DB7_00070001#128 =
    .cfg 32#6 0x04C11DB7#32 0xFFFFFFFF#32 true true 0xFFFFFFFF#32 ∧
  decode 0x00000000_00000000_00000000_0000018A#128 = .data 0x31#8 ∧
  decode 0xDEADBEEF_00000000_00000001_FFFFF98A#128 = .data 0x31#8 ∧
  decode 0x00000000_00000000_FFFFFFFF_FFFFFFFB#128 = .fin ∧
  decode 0x00000000_00000000_00000000_00000005#128 = .reserved 1#2

/-- R71, R83: every command, with every operand at every value its field admits, has a word that decodes to it. -/
def Obligations.DecodeEncodeEveryCommand : Prop :=
  ∀ i : Instr, i.isCommand = true → ∃ w, encode i = some w ∧ decode w = i

/-- R76, R83: encoding what a word decodes to gives the word with every bit its command does not read set to 0. -/
def Obligations.EncodeDecodeClearsIgnoredBits : Prop :=
  ∀ w : CmdWord, encode (decode w) = some (w &&& readBits w)

/-- R76: words that differ in ignored bits only have the same effect and the same response in every state. -/
def Obligations.IgnoredBitsHaveNoEffect : Prop :=
  ∀ (w w' : CmdWord) (s : State), (∀ k, k ≤ 2 → w.getLsbD k = w'.getLsbD k) →
    (opField w = 0#3 ∨ opField w = 3#3 → step (s.issue w) = step (s.issue w')) ∧
    (opField w = 2#3 → (∀ k, 3 ≤ k → k ≤ 10 → w.getLsbD k = w'.getLsbD k) →
      step (s.issue w) = step (s.issue w')) ∧
    (opField w = 1#3 → (∀ k, (11 ≤ k ∧ k ≤ 18) ∨ 32 ≤ k → w.getLsbD k = w'.getLsbD k) →
      step (s.issue w) = step (s.issue w')) ∧
    (∀ (i : Instr) (v : CmdWord), encode i = some v → v &&& readBits v = v)

/-- R73, R77, R85: every word decodes to a command row, never to an internal function, and to the reserved row exactly
when `cmd[2]` is 1. -/
def Obligations.DecodingIsTotalOnCommands : Prop :=
  ∀ w : CmdWord, (decode w).isCommand = true ∧ (decode w).wellFormed = true ∧
    ((∃ low, decode w = .reserved low) ↔ w.getLsbD 2 = true)

/-! ### The step (spec/45_commands.md R145; spec/70_reset_and_hazards.md) -/

/-- R145, R60: a step runs the decoded command, with the input taken from the host; the word it decodes is well formed. -/
def Obligations.StepRunsIssuedCommand : Prop :=
  ∀ (s : State) (cmd : CmdWord) (rest : List HostInput), s.pending = .command cmd :: rest →
    (decode cmd).wellFormed = true ∧ step s = exec (decode cmd) { s with pending := rest }

/-- R187: with no command issued the state is held unchanged, but for the input that is taken. The inputs are the model's
form (log 4), and that a standing response (`rsp`) is held while idling is the model's choice (log 9): the spec gives
`rsp_valid` no duration (R81, R203). -/
def Obligations.IdleHoldsState : Prop :=
  ∀ (s : State) (rest : List HostInput),
    (s.pending = [] → step s = .next s) ∧
    (s.pending = .idle :: rest → step s = .next { s with pending := rest })

/-- R190, R191: a reset, between commands or during one, clears `STATUS`, owes no response and abandons the command. The
inputs are the model's form (log 4), and that a reset between commands clears a standing response is its choice (log 9). -/
def Obligations.ResetClearsStatus : Prop :=
  ∀ (s : State) (cmd : CmdWord) (rest : List HostInput),
    s.pending = .reset :: rest ∨ s.pending = .resetDuring cmd :: rest →
    ∃ t, step s = .next t ∧ t.statusPort = 0b0000#4 ∧ t.rsp = none ∧ t.pending = rest

/-- R42, R190: the flags right after reset. That no response stands (log 9), that the host has issued nothing (log 4) and
the form of a port without a value (log 6) are the model's choices. -/
def Obligations.ResetStateFlags : Prop :=
  State.reset.statusPort = 0b0000#4 ∧ State.reset.rsp = none ∧ State.reset.pending = [] ∧
    State.reset.resultPort = none ∧ State.reset.genPort = none

/-- R192: the first command after reset may be any; `NOP` is accepted, `DATA`, `FIN` and reserved opcodes are refused. -/
def Obligations.FirstCommandAfterReset : Prop :=
  ∀ (din : Byte) (low : BitVec 2),
    (∃ t, exec .nop State.reset = .next t ∧ t.statusPort = 0b0000#4 ∧ t.rspPort = some 0#2) ∧
    (∃ t, exec (.data din) State.reset = .next t ∧ t.statusPort = 0b1000#4 ∧ t.rspPort = some 2#2) ∧
    (∃ t, exec .fin State.reset = .next t ∧ t.statusPort = 0b1000#4 ∧ t.rspPort = some 2#2) ∧
    (∃ t, exec (.reserved low) State.reset = .next t ∧ t.statusPort = 0b1000#4 ∧ t.rspPort = some 2#2)

/-- R145, R182: the step is total: in every state it answers a next state, never a fault and never a refusal. -/
def Obligations.StepAlwaysAnswersNext : Prop := ∀ s : State, ∃ t, step s = .next t

/-! ### The commands (spec/45_commands.md) -/

/-- R146: `NOP`, `cmd[2:0] = 000` whatever the other bits, changes no state and answers 0, in any state. -/
def Obligations.NopChangesNothing : Prop :=
  (∀ s : State, exec .nop s = .next { s with rsp := some .ok }) ∧
  ∀ (cmd : CmdWord) (s : State), (∀ k, k ≤ 2 → cmd.getLsbD k = false) →
    step (s.issue cmd) = .next { s with rsp := some .ok }

/-- R150: an accepted `CFG`, register by register; the two error flags and the model's own fields are kept. -/
def Obligations.CfgLoadsConfiguration : Prop :=
  ∀ (degree : DegreeBits) (poly init : Word) (refIn refOut : Bool) (xorOut : Word) (s : State),
    validConfig degree poly init xorOut = true →
    exec (.cfg degree poly init refIn refOut xorOut) s = .next
      { gen := init, degree := degree, poly := poly, init := init, refIn := refIn, refOut := refOut, xorOut := xorOut,
        result := init,
        status := { cfgValid := true, done := false, errCfg := s.status.errCfg, errProto := s.status.errProto },
        h1 := buildH1 poly degree.toNat, h2 := buildH2 poly degree.toNat, rsp := some .ok,
        pending := s.pending, resetCount := s.resetCount, unitOut := s.unitOut }

/-- R173: a rejected `CFG` writes three flags and the response, and nothing else. -/
def Obligations.CfgRejectedUnconfigures : Prop :=
  ∀ (degree : DegreeBits) (poly init : Word) (refIn refOut : Bool) (xorOut : Word) (s : State),
    validConfig degree poly init xorOut = false →
    exec (.cfg degree poly init refIn refOut xorOut) s = .next
      { s with
        status := { cfgValid := false, done := false, errCfg := true, errProto := s.status.errProto }
        rsp := some .invalidConfiguration }

/-- R171: what `ValidConfig` is true of, bit by bit; and InvalidConfiguration is raised by `CFG`, and only by `CFG`, exactly
when it is false. -/
def Obligations.ValidConfigBitByBit : Prop :=
  (∀ (degree : DegreeBits) (poly init xorOut : Word),
    validConfig degree poly init xorOut = true ↔
      (degree ∈ [4#6, 5#6, 7#6, 8#6, 15#6, 16#6, 24#6, 32#6] ∧
        ∀ k, degree.toNat ≤ k → k ≤ 31 →
          poly.getLsbD k = false ∧ init.getLsbD k = false ∧ xorOut.getLsbD k = false)) ∧
  ∀ (i : Instr) (s : State), i.isCommand = true →
    ∃ t, exec i s = .next t ∧
      (t.rsp = some .invalidConfiguration ↔ ∃ d : Descriptor, i = cfgCommand d ∧ d.valid = false)

/-- R153: an accepted `DATA` replaces `GEN` by the fold of the old `GEN`, clears `DONE` and writes nothing else. -/
def Obligations.DataFoldsOneByte : Prop :=
  ∀ (din : Byte) (s : State), s.status.cfgValid = true →
    exec (.data din) s = .next
      { s with
        gen := fold s.gen din s.h1 s.h2 s.degree.toNat s.refIn
        status := { cfgValid := true, done := false, errCfg := s.status.errCfg, errProto := s.status.errProto }
        rsp := some .ok }

/-- R156: an accepted `FIN` writes `RESULT` from `GEN`, sets `DONE` and writes nothing else. -/
def Obligations.FinWritesResult : Prop :=
  ∀ s : State, s.status.cfgValid = true →
    exec .fin s = .next
      { s with
        result := finalize s.gen s.degree.toNat s.refOut s.xorOut
        status := { cfgValid := true, done := true, errCfg := s.status.errCfg, errProto := s.status.errProto }
        rsp := some .ok }

/-- R77, R158, R176: a word with `cmd[2] = 1` is refused in every state, and nothing but `ERR_PROTO` and the response
changes. -/
def Obligations.ReservedOpcodeRefused : Prop :=
  (∀ (low : BitVec 2) (s : State),
    exec (.reserved low) s = .next
      { s with status := { s.status with errProto := true }, rsp := some .protocolError }) ∧
  ∀ (cmd : CmdWord) (s : State), cmd.getLsbD 2 = true →
    step (s.issue cmd) = .next
      { s with status := { s.status with errProto := true }, rsp := some .protocolError }

/-- R175 (a), (b), R176: `DATA` and `FIN` are refused while unconfigured, with the same effect. -/
def Obligations.UnconfiguredDataAndFinRefused : Prop :=
  ∀ (din : Byte) (s : State), s.status.cfgValid = false →
    exec (.data din) s = .next
      { s with status := { s.status with errProto := true }, rsp := some .protocolError } ∧
    exec .fin s = .next
      { s with status := { s.status with errProto := true }, rsp := some .protocolError }

/-- R175: ProtocolError is the answer in exactly three cases. -/
def Obligations.ProtocolErrorInExactlyThreeCases : Prop :=
  ∀ (i : Instr) (s : State), i.isCommand = true →
    ∃ t, exec i s = .next t ∧
      (t.rsp = some .protocolError ↔
        ((∃ din, i = .data din) ∧ s.status.cfgValid = false) ∨ (i = .fin ∧ s.status.cfgValid = false) ∨
          ∃ low, i = .reserved low)

/-- R165: the response of each command. -/
def Obligations.ResponseOfEachCommand : Prop :=
  ∀ (s : State) (d : Descriptor) (din : Byte) (low : BitVec 2),
    (∃ t, exec .nop s = .next t ∧ t.rspPort = some 0#2) ∧
    (∃ t, exec (cfgCommand d) s = .next t ∧ t.rspPort = some (if d.valid then 0#2 else 1#2)) ∧
    (∃ t, exec (.data din) s = .next t ∧ t.rspPort = some (if s.status.cfgValid then 0#2 else 2#2)) ∧
    (∃ t, exec .fin s = .next t ∧ t.rspPort = some (if s.status.cfgValid then 0#2 else 2#2)) ∧
    (∃ t, exec (.reserved low) s = .next t ∧ t.rspPort = some 2#2)

/-- R157: a second `FIN` leaves the whole state unchanged, and `FIN` never reads `RESULT`. -/
def Obligations.FinIsIdempotent : Prop :=
  ∀ (s : State) (r : Word), s.status.cfgValid = true →
    (∃ t, exec .fin s = .next t ∧ t.result = finalize s.gen s.deg s.refOut s.xorOut ∧ exec .fin t = .next t) ∧
    exec .fin { s with result := r } = exec .fin s

/-- R150 (a), (d), R58: `CFG` reads no prior state but what it keeps: two states that agree on the error flags and on the
model's own fields (log 1, 4, 5) go to the same state; and repeated with identical fields it leaves the identical state. -/
def Obligations.CfgForgetsThePast : Prop :=
  ∀ (d : Descriptor) (s s' : State), d.valid = true →
    (s'.status.errCfg = s.status.errCfg → s'.status.errProto = s.status.errProto → s.SameOwn s' →
      exec (cfgCommand d) s = exec (cfgCommand d) s') ∧
    ∃ t, exec (cfgCommand d) s = .next t ∧ exec (cfgCommand d) t = .next t

/-- R34, R35: over any one instruction each error flag is exactly what it was, or set by its own error. -/
def Obligations.ErrorFlagsAreSticky : Prop :=
  ∀ (i : Instr) (s : State), ∃ t, exec i s = .next t ∧
    (t.status.errCfg = true ↔
      s.status.errCfg = true ∨ ∃ d : Descriptor, i = cfgCommand d ∧ d.valid = false) ∧
    (t.status.errProto = true ↔
      s.status.errProto = true ∨ ((∃ din, i = .data din) ∧ s.status.cfgValid = false) ∨
        (i = .fin ∧ s.status.cfgValid = false) ∨ ∃ low, i = .reserved low)

/-- R164: the control state (`CFG_VALID`, `DONE`) after each command, from each control state the engine can be in. -/
def Obligations.ControlStateTransitions : Prop :=
  ∀ (s : State) (d : Descriptor) (din : Byte) (low : BitVec 2),
    (∃ t, exec (cfgCommand d) s = .next t ∧ t.status.cfgValid = d.valid ∧ t.status.done = false) ∧
    (s.status.cfgValid = true →
      (∃ t, exec (.data din) s = .next t ∧ t.status.cfgValid = true ∧ t.status.done = false) ∧
      (∃ t, exec .fin s = .next t ∧ t.status.cfgValid = true ∧ t.status.done = true)) ∧
    (s.status.cfgValid = false → ∀ i ∈ [Instr.data din, Instr.fin],
      ∃ t, exec i s = .next t ∧ t.status.cfgValid = false ∧ t.status.done = s.status.done) ∧
    (∀ i ∈ [Instr.nop, Instr.reserved low],
      ∃ t, exec i s = .next t ∧ t.status.cfgValid = s.status.cfgValid ∧ t.status.done = s.status.done)

/-- R152: only an accepted `CFG` changes a descriptor register or a matrix, and then it replaces them all. -/
def Obligations.OnlyCfgChangesConfiguration : Prop :=
  ∀ (i : Instr) (s : State), ∃ t, exec i s = .next t ∧
    ((∃ d : Descriptor, i = cfgCommand d ∧ d.valid = true ∧
        t.degree = d.degree ∧ t.poly = d.poly ∧ t.init = d.init ∧ t.refIn = d.refIn ∧ t.refOut = d.refOut ∧
        t.xorOut = d.xorOut ∧ t.h1 = buildH1 d.poly d.degree.toNat ∧ t.h2 = buildH2 d.poly d.degree.toNat) ∨
      s.SameConfig t)

/-- R21, R30: who writes `GEN` and who writes `RESULT`. -/
def Obligations.WhoWritesGenAndResult : Prop :=
  ∀ (i : Instr) (s t : State), exec i s = .next t →
    (t.gen = s.gen ∨ (∃ d : Descriptor, i = cfgCommand d ∧ d.valid = true) ∨
      ((∃ din, i = .data din) ∧ s.status.cfgValid = true)) ∧
    (t.result = s.result ∨ (∃ d : Descriptor, i = cfgCommand d ∧ d.valid = true) ∨
      (i = .fin ∧ s.status.cfgValid = true))

/-- R39, R173, R176: the frame of each command: what it leaves unchanged whenever it answers a next state. There is no
memory (R50), and the model's own fields are never written by a command. -/
def Obligations.CommandFrames : Prop :=
  ∀ (s t : State) (d : Descriptor) (din : Byte) (low : BitVec 2),
    (exec .nop s = .next t →
      s.SameConfig t ∧ s.SameOwn t ∧ t.gen = s.gen ∧ t.result = s.result ∧ t.status = s.status) ∧
    (exec (cfgCommand d) s = .next t →
      s.SameOwn t ∧ t.status.errProto = s.status.errProto ∧ (d.valid = true → t.status.errCfg = s.status.errCfg) ∧
      (d.valid = false → s.SameConfig t ∧ t.gen = s.gen ∧ t.result = s.result)) ∧
    (exec (.data din) s = .next t →
      s.SameConfig t ∧ s.SameOwn t ∧ t.result = s.result ∧ t.status.cfgValid = s.status.cfgValid ∧
      t.status.errCfg = s.status.errCfg ∧ (s.status.cfgValid = true → t.status.errProto = s.status.errProto) ∧
      (s.status.cfgValid = false → t.gen = s.gen ∧ t.status.done = s.status.done)) ∧
    (exec .fin s = .next t →
      s.SameConfig t ∧ s.SameOwn t ∧ t.gen = s.gen ∧ t.status.cfgValid = s.status.cfgValid ∧
      t.status.errCfg = s.status.errCfg ∧ (s.status.cfgValid = true → t.status.errProto = s.status.errProto) ∧
      (s.status.cfgValid = false → t.result = s.result ∧ t.status.done = s.status.done)) ∧
    (exec (.reserved low) s = .next t →
      s.SameConfig t ∧ s.SameOwn t ∧ t.gen = s.gen ∧ t.result = s.result ∧ t.status.cfgValid = s.status.cfgValid ∧
      t.status.done = s.status.done ∧ t.status.errCfg = s.status.errCfg)

/-! ### The internal functions (spec/40_bitvector.md to 44_finalize.md), exercised singly (log 5) -/

/-- R18: an internal function is pure: it completes in every state and writes no register of the engine. -/
def Obligations.InternalFunctionsWriteNoRegister : Prop :=
  ∀ (i : Instr) (s : State), i.isCommand = false →
    ∃ v, exec i s = .next { s with unitOut := some v }

/-- R91, R92, R93: `Get` and `Set` move the whole value; `GetBit` reads the one bit. -/
def Obligations.GetSetAndGetBit : Prop :=
  ∀ (v : Word) (k : BitIndex) (s : State),
    exec (.get v) s = .next { s with unitOut := some (.vector v) } ∧
    exec (.set v) s = .next { s with unitOut := some (.vector v) } ∧
    exec (.getBit v k) s = .next { s with unitOut := some (.bit (v.getLsbD k.val)) }

/-- R94: `SetBit` sets the one bit and keeps every other, and its three laws. -/
def Obligations.SetBitWritesOneBit : Prop :=
  ∀ (v : Word) (k : BitIndex) (b c : Bool) (s : State),
    ∃ r, exec (.setBit v k b) s = .next { s with unitOut := some (.vector r) } ∧
      getBit r k = b ∧ (∀ j, j ≠ k → getBit r j = getBit v j) ∧ setBit r k c = setBit v k c

/-- R100: the Galois step, bit by bit, and nothing at or above the degree. -/
def Obligations.SerialStepBits : Prop :=
  ∀ (prev : Word) (din : Bool) (poly : Word) (deg : DegreeBits) (s : State), legalDegree deg = true →
    ∃ r, exec (.serial prev din poly deg) s = .next { s with unitOut := some (.vector r) } ∧
      r.getLsbD 0 = (din ^^ (poly.getLsbD 0 && prev.getLsbD (deg.toNat - 1))) ∧
      (∀ i, 1 ≤ i → i < deg.toNat →
        r.getLsbD i = (prev.getLsbD (i - 1) ^^ (poly.getLsbD i && prev.getLsbD (deg.toNat - 1)))) ∧
      (∀ i, deg.toNat ≤ i → r.getLsbD i = false)

/-- R104: `n` serial clocks from `init`; clock `i` injects `data[i]` if `i < 8` and 0 otherwise. -/
def Obligations.ParallelRunsSerialClocks : Prop :=
  ∀ (n : Nat) (data init poly : Word) (deg : DegreeBits) (s : State), legalDegree deg = true →
    ∃ g : Nat → Word, g 0 = init ∧
      (∀ i, 1 ≤ i → i ≤ n →
        g i = serial (g (i - 1)) (if i < 8 then data.getLsbD i else false) poly deg.toNat) ∧
      exec (.parallel n data init poly deg) s = .next { s with unitOut := some (.vector (g n)) }

/-- R111, R113: the columns of both matrices. -/
def Obligations.MatrixColumns : Prop :=
  ∀ (poly : Word) (deg : DegreeBits) (s : State), legalDegree deg = true → inRange deg.toNat poly = true →
    (∃ h : Vector Word 8, exec (.buildH1 poly deg) s = .next { s with unitOut := some (.columns8 h) } ∧
      ∀ n : ByteIndex, h[n] = parallel n.val 0#32 poly poly deg.toNat) ∧
    (∃ h : List Word, exec (.buildH2 poly deg) s = .next { s with unitOut := some (.columns h) } ∧
      h.length = deg.toNat ∧
      ∀ n, n < deg.toNat → h[n]? = some (parallel 8 0#32 (1#32 <<< n) poly deg.toNat))

/-- R120: bit `7-d` moves to position `d`, and reversing twice gives the byte back. -/
def Obligations.Rev8ReversesTheByte : Prop :=
  ∀ (b : Byte) (s : State),
    ∃ r, exec (.rev8 b) s = .next { s with unitOut := some (.byte r) } ∧
      (∀ d, d ≤ 7 → r.getLsbD d = b.getLsbD (7 - d)) ∧ rev8 r = b

/-- R121 to R124: each bit of the fold from the row vectors of both matrices, and nothing at or above the degree. -/
def Obligations.FoldBitsFromRows : Prop :=
  ∀ (gen : Word) (byte : Byte) (h1 : Vector Word 8) (h2 : List Word) (deg : DegreeBits) (refIn : Bool) (s : State),
    legalDegree deg = true → h2.length = deg.toNat →
    ∃ r, exec (.fold gen byte h1 h2 deg refIn) s = .next { s with unitOut := some (.vector r) } ∧
      (∀ i, i < deg.toNat → ∀ (r1 : Byte) (r2 : Word),
        (∀ c : ByteIndex, r1.getLsbD c.val = h1[c].getLsbD i) →
        (∀ c v, h2[c]? = some v → r2.getLsbD c = v.getLsbD i) →
        (∀ c, deg.toNat ≤ c → r2.getLsbD c = false) →
        r.getLsbD i = (parity (r1 &&& (if refIn then rev8 byte else byte)) ^^ parity (r2 &&& gen))) ∧
      (∀ i, deg.toNat ≤ i → r.getLsbD i = false)

/-- R136: reversal within `deg` bits, and it is its own inverse on a value of `deg` bits. -/
def Obligations.RevNReversesTheLowBits : Prop :=
  ∀ (v : Word) (deg : DegreeBits) (s : State), legalDegree deg = true →
    ∃ r, exec (.revN v deg) s = .next { s with unitOut := some (.vector r) } ∧
      (∀ d, d < deg.toNat → r.getLsbD d = v.getLsbD (deg.toNat - 1 - d)) ∧
      (∀ d, deg.toNat ≤ d → r.getLsbD d = false) ∧
      (inRange deg.toNat v = true → revN r deg.toNat = v)

/-- R137, R138, R139: reversal if `ref_out`, then the mask; in range for a valid configuration. -/
def Obligations.FinalizeReversesThenMasks : Prop :=
  ∀ (gen : Word) (deg : DegreeBits) (refOut : Bool) (xorOut : Word) (s : State), legalDegree deg = true →
    ∃ r, exec (.finalize gen deg refOut xorOut) s = .next { s with unitOut := some (.vector r) } ∧
      (∀ k, k < deg.toNat →
        r.getLsbD k = ((if refOut then gen.getLsbD (deg.toNat - 1 - k) else gen.getLsbD k) ^^ xorOut.getLsbD k)) ∧
      (inRange deg.toNat gen = true → inRange deg.toNat xorOut = true → inRange deg.toNat r = true)

/-! ### The laws of the functions (spec/41_lfsr.md, 42_matrix.md, 43_fold.md, 44_finalize.md) -/

/-- R101: the closed form of the serial step. -/
def Obligations.SerialClosedForm : Prop :=
  ∀ (prev : Word) (din : Bool) (poly : Word) (deg : DegreeBits), legalDegree deg = true →
    serial prev din poly deg.toNat =
      ((((prev <<< 1) &&& mask deg.toNat) ||| (BitVec.ofBool din).zeroExtend 32) ^^^
        (if prev.getLsbD (deg.toNat - 1) then poly &&& mask deg.toNat else 0#32)) ∧
    (inRange deg.toNat poly = true → poly &&& mask deg.toNat = poly)

/-- R102: the zero-input step is linear over GF(2), and the input bit adds at position 0. -/
def Obligations.SerialIsLinear : Prop :=
  ∀ (a b : Word) (d : Bool) (poly : Word) (deg : DegreeBits), legalDegree deg = true →
    serial (a ^^^ b) false poly deg.toNat = serial a false poly deg.toNat ^^^ serial b false poly deg.toNat ∧
    serial 0#32 false poly deg.toNat = 0#32 ∧
    serial a d poly deg.toNat = serial a false poly deg.toNat ^^^ (BitVec.ofBool d).zeroExtend 32

/-- R106: clocks compose, and column `n + 1` of `H1` is one serial step of column `n`. -/
def Obligations.ParallelComposes : Prop :=
  ∀ (a b n : Nat) (x poly : Word) (deg : DegreeBits), legalDegree deg = true →
    parallel (a + b) 0#32 x poly deg.toNat = parallel b 0#32 (parallel a 0#32 x poly deg.toNat) poly deg.toNat ∧
    parallel (n + 1) 0#32 x poly deg.toNat = serial (parallel n 0#32 x poly deg.toNat) false poly deg.toNat ∧
    (∀ m : ByteIndex, ∀ h : m.val + 1 < 8,
      (buildH1 poly deg.toNat)[m.val + 1] = serial (buildH1 poly deg.toNat)[m] false poly deg.toNat)

/-- R112, R117: column 0 of `H1` is the polynomial, so polynomials of one degree give different matrices. -/
def Obligations.H1DeterminesThePolynomial : Prop :=
  ∀ (poly poly' : Word) (deg : DegreeBits), legalDegree deg = true →
    (buildH1 poly deg.toNat)[0] = poly ∧
    (buildH1 poly deg.toNat = buildH1 poly' deg.toNat → poly = poly')

/-- R114: every column of `H2` is a unit vector or a column of `H1`. -/
def Obligations.H2IsShiftsAndH1 : Prop :=
  ∀ (poly : Word) (deg : DegreeBits), legalDegree deg = true → inRange deg.toNat poly = true →
    (∀ n, n < deg.toNat →
      (n + 8 ≤ deg.toNat - 1 → (buildH2 poly deg.toNat)[n]? = some (1#32 <<< (n + 8))) ∧
      (¬ n + 8 ≤ deg.toNat - 1 →
        (buildH2 poly deg.toNat)[n]? = (buildH1 poly deg.toNat).toList[n + 8 - deg.toNat]?)) ∧
    (deg = 8#6 → buildH2 poly deg.toNat = (buildH1 poly deg.toNat).toList)

/-- R115: every column of both matrices is within the degree. -/
def Obligations.MatrixColumnsAreInRange : Prop :=
  ∀ (poly : Word) (deg : DegreeBits), legalDegree deg = true → inRange deg.toNat poly = true →
    (∀ c : ByteIndex, inRange deg.toNat (buildH1 poly deg.toNat)[c] = true) ∧
    (∀ v ∈ buildH2 poly deg.toNat, inRange deg.toNat v = true)

/-- R118: the zero polynomial: zero `H1`, shifting `H2`, and a fold that shifts `GEN` up and ignores the data. -/
def Obligations.ZeroPolynomialShifts : Prop :=
  ∀ (gen : Word) (byte : Byte) (deg : DegreeBits) (refIn : Bool), legalDegree deg = true →
    (∀ c : ByteIndex, (buildH1 0#32 deg.toNat)[c] = 0#32) ∧
    (∀ n, n < deg.toNat →
      (buildH2 0#32 deg.toNat)[n]? = some (if n + 8 ≤ deg.toNat - 1 then 1#32 <<< (n + 8) else 0#32)) ∧
    fold gen byte (buildH1 0#32 deg.toNat) (buildH2 0#32 deg.toNat) deg.toNat refIn =
      (gen <<< 8) &&& mask deg.toNat

/-- R118: so after `ceil(deg / 8)` bytes the running state is 0. -/
def Obligations.ZeroPolynomialClearsState : Prop :=
  ∀ (d : Descriptor) (message : List Byte), d.valid = true → d.poly = 0#32 →
    (d.degree.toNat + 7) / 8 ≤ message.length → foldMessage d d.init message = 0#32

/-- R125: the column form of the fold. -/
def Obligations.FoldIsXorOfColumns : Prop :=
  ∀ (gen : Word) (byte : Byte) (poly : Word) (deg : DegreeBits) (refIn : Bool),
    legalDegree deg = true → inRange deg.toNat poly = true →
    fold gen byte (buildH1 poly deg.toNat) (buildH2 poly deg.toNat) deg.toNat refIn =
      xorColumns 8 (fun j => (inputByte refIn byte).getLsbD j) (fun j => ((buildH1 poly deg.toNat).toList[j]?).getD 0#32) ^^^
      xorColumns deg.toNat (fun j => gen.getLsbD j) (fun j => ((buildH2 poly deg.toNat)[j]?).getD 0#32)

/-- R53, R127: the fold is eight one-bit updates, the most significant bit of the (possibly reversed) byte first, in
either form of the update. -/
def Obligations.FoldIsEightMessageClocks : Prop :=
  ∀ (gen : Word) (byte : Byte) (poly : Word) (deg : DegreeBits) (refIn : Bool),
    legalDegree deg = true → inRange deg.toNat poly = true →
    fold gen byte (buildH1 poly deg.toNat) (buildH2 poly deg.toNat) deg.toNat refIn =
      (serialBits (inputByte refIn byte)).foldl (messageClock poly deg.toNat) gen ∧
    fold gen byte (buildH1 poly deg.toNat) (buildH2 poly deg.toNat) deg.toNat refIn =
      (serialBits (inputByte refIn byte)).foldl (topBitClock poly deg.toNat) gen

/-- R130: the fold is linear in state and byte together, for either setting of `ref_in` and any matrices. -/
def Obligations.FoldIsLinear : Prop :=
  ∀ (g g' : Word) (b b' : Byte) (h1 : Vector Word 8) (h2 : List Word) (deg : DegreeBits) (refIn : Bool),
    legalDegree deg = true → h2.length = deg.toNat →
    fold (g ^^^ g') (b ^^^ b') h1 h2 deg.toNat refIn =
      fold g b h1 h2 deg.toNat refIn ^^^ fold g' b' h1 h2 deg.toNat refIn ∧
    fold 0#32 0#8 h1 h2 deg.toNat refIn = 0#32 ∧
    rev8 (b ^^^ b') = rev8 b ^^^ rev8 b'

/-- R130: for degree 8, where `H1 = H2`, state and byte enter the fold alike. -/
def Obligations.DegreeEightFoldsStateLikeByte : Prop :=
  ∀ (g b : Byte) (poly : Word), inRange 8 poly = true →
    fold (g.zeroExtend 32) b (buildH1 poly 8) (buildH2 poly 8) 8 false =
      fold 0#32 (g ^^^ b) (buildH1 poly 8) (buildH2 poly 8) 8 false

/-! ### Invariants every step keeps (spec/10_state.md) -/

/-- R22, R24, R45: the width invariant is kept by every step, whatever the host does. -/
def Obligations.EveryStepKeepsWidths : Prop :=
  ∀ s t : State, s.WidthInv → step s = .next t → t.WidthInv

/-- R36, R37, R38: while configured the matrices are those of the configured polynomial and degree, after every step. -/
def Obligations.EveryStepKeepsMatrices : Prop :=
  ∀ s t : State, s.MatrixInv → step s = .next t → t.MatrixInv

/-- R33, R164: `DONE` says that `RESULT` is the check value of the present `GEN`, after every step. -/
def Obligations.EveryStepKeepsDoneMeaning : Prop :=
  ∀ s t : State, s.DoneInv → step s = .next t → t.DoneInv

/-- R42, R190: the invariants hold right after reset, whatever the unspecified registers hold. -/
def Obligations.InvariantsHoldAtReset : Prop :=
  State.reset.WidthInv ∧ State.reset.MatrixInv ∧ State.reset.DoneInv

/-! ### Transactions (spec/45_commands.md R154 to R161; spec/43_fold.md R129) -/

/-- R160, R202: the commands of a transaction, from any state, leave the check value of exactly the bytes sent, with
`DONE` set and the error flags as they were. -/
def Obligations.TransactionComputesTheCrc : Prop :=
  ∀ (d : Descriptor) (message : List Byte) (s : State), d.valid = true →
    ∃ t, execAll (computeCommands d message) s = .next t ∧
      t.result = computeCrc d message ∧ t.gen = foldMessage d d.init message ∧
      t.status = { cfgValid := true, done := true, errCfg := s.status.errCfg, errProto := s.status.errProto } ∧
      t.rsp = some .ok

/-- R160, R60: the same through the command port: issued one word at a time, each step taking the next. -/
def Obligations.IssuedWordsComputeTheCrc : Prop :=
  ∀ (d : Descriptor) (message : List Byte) (words : List CmdWord) (rest : List HostInput) (s : State),
    d.valid = true → (computeCommands d message).mapM encode = some words →
    s.pending = words.map HostInput.command ++ rest →
    ∃ t, Host.Core.run Sys2Proof.core words.length s = .next t ∧
      t.result = computeCrc d message ∧ t.status.done = true ∧ t.status.cfgValid = true ∧ t.pending = rest

/-- R129, R154: `DATA` after `FIN` extends the same message: the second `FIN` gives the check value of the whole, and the
first that of the part. -/
def Obligations.SplitMessageGivesSameResult : Prop :=
  ∀ (d : Descriptor) (a b : List Byte) (s : State), d.valid = true →
    ∃ t u, execAll (computeCommands d a) s = .next t ∧ t.result = computeCrc d a ∧
      execAll (msgCommands b ++ [.fin]) t = .next u ∧ u.result = computeCrc d (a ++ b)

/-- R140: the empty message. -/
def Obligations.EmptyMessageIdentity : Prop :=
  ∀ (d : Descriptor) (s : State), d.valid = true →
    ∃ t, execAll (computeCommands d []) s = .next t ∧
      t.result = ((if d.refOut then revN d.init d.degree.toNat else d.init) ^^^ d.xorOut)

/-- R161: the state after a transaction, apart from the sticky flags and the model's own fields (log 1, 4, 5), depends only
on the `CFG` fields and the bytes. -/
def Obligations.TransactionIsDeterministic : Prop :=
  ∀ (d : Descriptor) (message : List Byte) (s s' : State), d.valid = true →
    ∃ t t', execAll (computeCommands d message) s = .next t ∧ execAll (computeCommands d message) s' = .next t' ∧
      t.SameConfig t' ∧ t'.gen = t.gen ∧ t'.result = t.result ∧ t'.status.cfgValid = t.status.cfgValid ∧
      t'.status.done = t.status.done ∧ t'.rsp = t.rsp

/-! ### Several engines (spec/60_exceptions.md R184) -/

/-- R184: a step of one engine changes no other engine, and steps of two engines commute. -/
def Obligations.EnginesAreIndependent : Prop :=
  ∀ (n : Nat) (sys : System n) (j k : Fin n), j ≠ k →
    ∃ u v w, sys.stepEngine j = .next u ∧ u[k] = sys[k] ∧ step sys[j] = .next u[j] ∧
      sys.stepEngine k = .next v ∧ u.stepEngine k = .next w ∧ v.stepEngine j = .next w
end

