-- ==== Sys2Proof/Laws/BitVector.lean ====
section
/-! SUPPORT. What the bit operations and the bit loops do, said once in terms of `BitVec.getLsbD`. -/

namespace Sys2Proof.Machine

@[simp] theorem getBit_eq_getLsbD (v : Word) (i : BitIndex) : getBit v i = v.getLsbD i.val := by
  have h : (v >>> i.val &&& 1#32) = (BitVec.ofBool (v.getLsbD i.val)).zeroExtend 32 := by
    apply BitVec.eq_of_getLsbD_eq
    intro k hk
    rcases Nat.eq_zero_or_pos k with rfl | hpos
    · simp
    · simp [BitVec.getLsbD_one, BitVec.getLsbD_ofBool, Nat.ne_of_gt hpos]
  unfold getBit
  rw [h]
  cases v.getLsbD i.val <;> decide

theorem unit_getLsbD (n : BitIndex) (k : Nat) : (unit n).getLsbD k = decide (k = n.val) := by
  have := n.isLt
  simp only [unit, BitVec.getLsbD_shiftLeft, BitVec.getLsbD_one]
  by_cases h : k = n.val
  · subst h
    simp
  · have : ¬ (n.val ≤ k ∧ k - n.val = 0) := by omega
    by_cases h2 : k < n.val
    · simp [h, h2]
    · simp [h, h2]
      omega

theorem setBit_getLsbD (v : Word) (i : BitIndex) (b : Bool) (k : Nat) :
    (setBit v i b).getLsbD k = if k = i.val then b else v.getLsbD k := by
  have hi := i.isLt
  cases b <;> simp only [setBit, if_true, Bool.false_eq_true, if_false, BitVec.getLsbD_or, BitVec.getLsbD_and,
    BitVec.getLsbD_not, unit_getLsbD]
  · by_cases h : k = i.val
    · simp [h]
    · by_cases hk : k < 32
      · simp [h, hk]
      · simp [h, BitVec.getLsbD_of_ge v k (Nat.le_of_not_lt hk)]
  · by_cases h : k = i.val <;> simp [h]

/-- An index below 32 is in the container: the bit itself, no free value. -/
theorem bitAt_of_lt {n : Nat} (h : n < 32) (v : Word) : bitAt v n = v.getLsbD n := by
  simp [bitAt, h]

/-- An index of 32 or more has no bit: the free value (R95). -/
theorem bitAt_of_ge {n : Nat} (h : 32 ≤ n) (v : Word) : bitAt v n = Config.bitOutside v n := dif_neg (Nat.not_lt.mpr h)

theorem setBitAt_of_ge {n : Nat} (h : 32 ≤ n) (v : Word) (b : Bool) : setBitAt v n b = Config.vectorOutside v n b :=
  dif_neg (Nat.not_lt.mpr h)

theorem unitAt_of_ge {n : Nat} (h : 32 ≤ n) : unitAt n = Config.unitOutside n := dif_neg (Nat.not_lt.mpr h)

theorem topBit_of_bounds {deg : Nat} (h1 : 1 ≤ deg) (h : deg ≤ 32) (v : Word) : topBit v deg = v.getLsbD (deg - 1) := by
  cases deg with
  | zero => omega
  | succ k => exact bitAt_of_lt h v

theorem unitAt_of_lt {n : Nat} (h : n < 32) : unitAt n = unit ⟨n, h⟩ := dif_pos h

theorem setBitAt_getLsbD {n : Nat} (h : n < 32) (v : Word) (b : Bool) (k : Nat) :
    (setBitAt v n b).getLsbD k = if k = n then b else v.getLsbD k := by
  rw [setBitAt, dif_pos h, setBit_getLsbD]

/-- The bits of a vector that a loop fills within the container: bit `k` is `f k` below `n`, and 0 from `n` on. -/
theorem fillBits_getLsbD {n : Nat} (hn : n ≤ 32) (f : Nat → Bool) (k : Nat) :
    (fillBits n f).getLsbD k = (decide (k < n) && f k) := by
  induction n with
  | zero => simp [fillBits]
  | succ m ih =>
    rw [fillBits, setBitAt_getLsbD (by omega), ih (by omega)]
    by_cases h : k = m
    · simp [h]
    · simp [h, show k < m + 1 ↔ k < m by omega]

theorem fillByte_getLsbD (f : ByteIndex → Bool) (j : ByteIndex) : (fillByte f).getLsbD j.val = f j := by
  simp only [fillByte, BitVec.getLsbD_ofBoolListLE]
  fin_cases j <;> rfl

theorem mask_getLsbD {n : Nat} (hn : n ≤ 32) (k : Nat) : (mask n).getLsbD k = decide (k < n) := by
  have : (0xFFFFFFFF#32 : Word) = BitVec.allOnes 32 := by decide
  simp only [mask, this, BitVec.getLsbD_ushiftRight, BitVec.getLsbD_allOnes]
  congr 1
  apply propext
  omega

theorem xorOver_congr {n : Nat} {p p' e e' : Nat → Bool} (h : ∀ j < n, p j = p' j ∧ (p j = true → e j = e' j)) :
    xorOver n p e = xorOver n p' e' := by
  induction n with
  | zero => rfl
  | succ m ih =>
    have hm := h m (Nat.lt_succ_self m)
    simp only [xorOver, ih (fun j hj => h j (Nat.lt_succ_of_lt hj)), hm.1]
    split
    · next hp => rw [hm.2 (hm.1 ▸ hp)]
    · rfl

/-- A register is in range exactly when it has no bit at or above the degree. -/
theorem inRange_iff {deg : Nat} (v : Word) : inRange deg v = true ↔ ∀ k, deg ≤ k → v.getLsbD k = false := by
  unfold inRange
  split
  · rw [beq_iff_eq]
    constructor
    · intro h k hk
      have := congrArg (fun x : Word => x.getLsbD (k - deg)) h
      simpa [Nat.add_sub_cancel' hk] using this
    · intro h
      apply BitVec.eq_of_getLsbD_eq
      intro k _
      simp [h]
  · next hd =>
    simp only [true_iff]
    exact fun k hk => BitVec.getLsbD_of_ge v k (by omega)

theorem inRange_fillBits {deg n : Nat} (h : n ≤ deg) (f : Nat → Bool) : inRange deg (fillBits n f) = true := by
  rw [inRange_iff]
  intro k hk
  by_cases hn : n ≤ 32
  · simp [fillBits_getLsbD hn, show ¬ k < n by omega]
  · exact BitVec.getLsbD_of_ge _ k (by omega)

/-- A legal degree is between 4 and 32. -/
theorem legalDegree_bounds {d : DegreeBits} (h : legalDegree d = true) : 4 ≤ d.toNat ∧ d.toNat ≤ 32 := by
  simp only [legalDegree, degrees, List.contains_eq_mem, List.mem_cons, List.not_mem_nil, or_false,
    decide_eq_true_eq] at h
  omega

end Sys2Proof.Machine
end

