-- ==== Sys2Proof/Laws/Encoding.lean ====
section
/-! SUPPORT. Bits of a placed field, and of a word rebuilt from a field: what the encoding lemmas rest on. -/

namespace Sys2Proof

theorem place_getLsbD {n : Nat} (v : BitVec n) (lo k : Nat) :
    (place v lo).getLsbD k = (decide (k < 128) && decide (lo ≤ k) && v.getLsbD (k - lo)) := by
  by_cases h : k < 128
  · by_cases h2 : lo ≤ k
    · simp [place, h, h2, Nat.not_lt.mpr h2]
    · simp [place, h, h2, Nat.not_le.mp h2]
  · simp [h, BitVec.getLsbD_of_ge (place v lo) k (by omega)]

end Sys2Proof
end

