-- ==== Sys2Proof/Laws/State.lean ====
section
/-! SUPPORT. What each update of the state leaves in each field: one lemma per field per update, true by `rfl`. -/

namespace Sys2Proof.Machine

@[simp] theorem State.respondOk_gen (s : State) : (s.respondOk).gen = s.gen := rfl
@[simp] theorem State.respondOk_degree (s : State) : (s.respondOk).degree = s.degree := rfl
@[simp] theorem State.respondOk_poly (s : State) : (s.respondOk).poly = s.poly := rfl
@[simp] theorem State.respondOk_init (s : State) : (s.respondOk).init = s.init := rfl
@[simp] theorem State.respondOk_refIn (s : State) : (s.respondOk).refIn = s.refIn := rfl
@[simp] theorem State.respondOk_refOut (s : State) : (s.respondOk).refOut = s.refOut := rfl
@[simp] theorem State.respondOk_xorOut (s : State) : (s.respondOk).xorOut = s.xorOut := rfl
@[simp] theorem State.respondOk_result (s : State) : (s.respondOk).result = s.result := rfl
@[simp] theorem State.respondOk_status (s : State) : (s.respondOk).status = s.status := rfl
@[simp] theorem State.respondOk_h1 (s : State) : (s.respondOk).h1 = s.h1 := rfl
@[simp] theorem State.respondOk_h2 (s : State) : (s.respondOk).h2 = s.h2 := rfl
@[simp] theorem State.respondOk_rsp (s : State) : (s.respondOk).rsp = some .ok := rfl
@[simp] theorem State.respondOk_pending (s : State) : (s.respondOk).pending = s.pending := rfl
@[simp] theorem State.respondOk_resetCount (s : State) : (s.respondOk).resetCount = s.resetCount := rfl
@[simp] theorem State.respondOk_unitOut (s : State) : (s.respondOk).unitOut = s.unitOut := rfl

@[simp] theorem State.raise_gen (s : State) (e : ErrorClass) : (s.raise e).gen = s.gen := rfl
@[simp] theorem State.raise_degree (s : State) (e : ErrorClass) : (s.raise e).degree = s.degree := rfl
@[simp] theorem State.raise_poly (s : State) (e : ErrorClass) : (s.raise e).poly = s.poly := rfl
@[simp] theorem State.raise_init (s : State) (e : ErrorClass) : (s.raise e).init = s.init := rfl
@[simp] theorem State.raise_refIn (s : State) (e : ErrorClass) : (s.raise e).refIn = s.refIn := rfl
@[simp] theorem State.raise_refOut (s : State) (e : ErrorClass) : (s.raise e).refOut = s.refOut := rfl
@[simp] theorem State.raise_xorOut (s : State) (e : ErrorClass) : (s.raise e).xorOut = s.xorOut := rfl
@[simp] theorem State.raise_result (s : State) (e : ErrorClass) : (s.raise e).result = s.result := rfl
@[simp] theorem State.raise_status (s : State) (e : ErrorClass) : (s.raise e).status = s.status.afterError e := rfl
@[simp] theorem State.raise_h1 (s : State) (e : ErrorClass) : (s.raise e).h1 = s.h1 := rfl
@[simp] theorem State.raise_h2 (s : State) (e : ErrorClass) : (s.raise e).h2 = s.h2 := rfl
@[simp] theorem State.raise_rsp (s : State) (e : ErrorClass) : (s.raise e).rsp = some e.rsp := rfl
@[simp] theorem State.raise_pending (s : State) (e : ErrorClass) : (s.raise e).pending = s.pending := rfl
@[simp] theorem State.raise_resetCount (s : State) (e : ErrorClass) : (s.raise e).resetCount = s.resetCount := rfl
@[simp] theorem State.raise_unitOut (s : State) (e : ErrorClass) : (s.raise e).unitOut = s.unitOut := rfl

@[simp] theorem State.configure_gen (s : State) (d : DegreeBits) (p i : Word) (ri ro : Bool) (x : Word) : (s.configure d p i ri ro x).gen = i := rfl
@[simp] theorem State.configure_degree (s : State) (d : DegreeBits) (p i : Word) (ri ro : Bool) (x : Word) : (s.configure d p i ri ro x).degree = d := rfl
@[simp] theorem State.configure_poly (s : State) (d : DegreeBits) (p i : Word) (ri ro : Bool) (x : Word) : (s.configure d p i ri ro x).poly = p := rfl
@[simp] theorem State.configure_init (s : State) (d : DegreeBits) (p i : Word) (ri ro : Bool) (x : Word) : (s.configure d p i ri ro x).init = i := rfl
@[simp] theorem State.configure_refIn (s : State) (d : DegreeBits) (p i : Word) (ri ro : Bool) (x : Word) : (s.configure d p i ri ro x).refIn = ri := rfl
@[simp] theorem State.configure_refOut (s : State) (d : DegreeBits) (p i : Word) (ri ro : Bool) (x : Word) : (s.configure d p i ri ro x).refOut = ro := rfl
@[simp] theorem State.configure_xorOut (s : State) (d : DegreeBits) (p i : Word) (ri ro : Bool) (x : Word) : (s.configure d p i ri ro x).xorOut = x := rfl
@[simp] theorem State.configure_result (s : State) (d : DegreeBits) (p i : Word) (ri ro : Bool) (x : Word) : (s.configure d p i ri ro x).result = i := rfl
@[simp] theorem State.configure_status (s : State) (d : DegreeBits) (p i : Word) (ri ro : Bool) (x : Word) : (s.configure d p i ri ro x).status = s.status.afterCfg := rfl
@[simp] theorem State.configure_h1 (s : State) (d : DegreeBits) (p i : Word) (ri ro : Bool) (x : Word) : (s.configure d p i ri ro x).h1 = buildH1 p d.toNat := rfl
@[simp] theorem State.configure_h2 (s : State) (d : DegreeBits) (p i : Word) (ri ro : Bool) (x : Word) : (s.configure d p i ri ro x).h2 = buildH2 p d.toNat := rfl
@[simp] theorem State.configure_rsp (s : State) (d : DegreeBits) (p i : Word) (ri ro : Bool) (x : Word) : (s.configure d p i ri ro x).rsp = some .ok := rfl
@[simp] theorem State.configure_pending (s : State) (d : DegreeBits) (p i : Word) (ri ro : Bool) (x : Word) : (s.configure d p i ri ro x).pending = s.pending := rfl
@[simp] theorem State.configure_resetCount (s : State) (d : DegreeBits) (p i : Word) (ri ro : Bool) (x : Word) : (s.configure d p i ri ro x).resetCount = s.resetCount := rfl
@[simp] theorem State.configure_unitOut (s : State) (d : DegreeBits) (p i : Word) (ri ro : Bool) (x : Word) : (s.configure d p i ri ro x).unitOut = s.unitOut := rfl

@[simp] theorem State.foldByte_gen (s : State) (b : Byte) : (s.foldByte b).gen = fold s.gen b s.h1 s.h2 s.deg s.refIn := rfl
@[simp] theorem State.foldByte_degree (s : State) (b : Byte) : (s.foldByte b).degree = s.degree := rfl
@[simp] theorem State.foldByte_poly (s : State) (b : Byte) : (s.foldByte b).poly = s.poly := rfl
@[simp] theorem State.foldByte_init (s : State) (b : Byte) : (s.foldByte b).init = s.init := rfl
@[simp] theorem State.foldByte_refIn (s : State) (b : Byte) : (s.foldByte b).refIn = s.refIn := rfl
@[simp] theorem State.foldByte_refOut (s : State) (b : Byte) : (s.foldByte b).refOut = s.refOut := rfl
@[simp] theorem State.foldByte_xorOut (s : State) (b : Byte) : (s.foldByte b).xorOut = s.xorOut := rfl
@[simp] theorem State.foldByte_result (s : State) (b : Byte) : (s.foldByte b).result = s.result := rfl
@[simp] theorem State.foldByte_status (s : State) (b : Byte) : (s.foldByte b).status = s.status.afterData := rfl
@[simp] theorem State.foldByte_h1 (s : State) (b : Byte) : (s.foldByte b).h1 = s.h1 := rfl
@[simp] theorem State.foldByte_h2 (s : State) (b : Byte) : (s.foldByte b).h2 = s.h2 := rfl
@[simp] theorem State.foldByte_rsp (s : State) (b : Byte) : (s.foldByte b).rsp = some .ok := rfl
@[simp] theorem State.foldByte_pending (s : State) (b : Byte) : (s.foldByte b).pending = s.pending := rfl
@[simp] theorem State.foldByte_resetCount (s : State) (b : Byte) : (s.foldByte b).resetCount = s.resetCount := rfl
@[simp] theorem State.foldByte_unitOut (s : State) (b : Byte) : (s.foldByte b).unitOut = s.unitOut := rfl

@[simp] theorem State.finish_gen (s : State) : (s.finish).gen = s.gen := rfl
@[simp] theorem State.finish_degree (s : State) : (s.finish).degree = s.degree := rfl
@[simp] theorem State.finish_poly (s : State) : (s.finish).poly = s.poly := rfl
@[simp] theorem State.finish_init (s : State) : (s.finish).init = s.init := rfl
@[simp] theorem State.finish_refIn (s : State) : (s.finish).refIn = s.refIn := rfl
@[simp] theorem State.finish_refOut (s : State) : (s.finish).refOut = s.refOut := rfl
@[simp] theorem State.finish_xorOut (s : State) : (s.finish).xorOut = s.xorOut := rfl
@[simp] theorem State.finish_result (s : State) : (s.finish).result = finalize s.gen s.deg s.refOut s.xorOut := rfl
@[simp] theorem State.finish_status (s : State) : (s.finish).status = s.status.afterFin := rfl
@[simp] theorem State.finish_h1 (s : State) : (s.finish).h1 = s.h1 := rfl
@[simp] theorem State.finish_h2 (s : State) : (s.finish).h2 = s.h2 := rfl
@[simp] theorem State.finish_rsp (s : State) : (s.finish).rsp = some .ok := rfl
@[simp] theorem State.finish_pending (s : State) : (s.finish).pending = s.pending := rfl
@[simp] theorem State.finish_resetCount (s : State) : (s.finish).resetCount = s.resetCount := rfl
@[simp] theorem State.finish_unitOut (s : State) : (s.finish).unitOut = s.unitOut := rfl

@[simp] theorem State.deliver_gen (s : State) (v : UnitValue) : (s.deliver v).gen = s.gen := rfl
@[simp] theorem State.deliver_degree (s : State) (v : UnitValue) : (s.deliver v).degree = s.degree := rfl
@[simp] theorem State.deliver_poly (s : State) (v : UnitValue) : (s.deliver v).poly = s.poly := rfl
@[simp] theorem State.deliver_init (s : State) (v : UnitValue) : (s.deliver v).init = s.init := rfl
@[simp] theorem State.deliver_refIn (s : State) (v : UnitValue) : (s.deliver v).refIn = s.refIn := rfl
@[simp] theorem State.deliver_refOut (s : State) (v : UnitValue) : (s.deliver v).refOut = s.refOut := rfl
@[simp] theorem State.deliver_xorOut (s : State) (v : UnitValue) : (s.deliver v).xorOut = s.xorOut := rfl
@[simp] theorem State.deliver_result (s : State) (v : UnitValue) : (s.deliver v).result = s.result := rfl
@[simp] theorem State.deliver_status (s : State) (v : UnitValue) : (s.deliver v).status = s.status := rfl
@[simp] theorem State.deliver_h1 (s : State) (v : UnitValue) : (s.deliver v).h1 = s.h1 := rfl
@[simp] theorem State.deliver_h2 (s : State) (v : UnitValue) : (s.deliver v).h2 = s.h2 := rfl
@[simp] theorem State.deliver_rsp (s : State) (v : UnitValue) : (s.deliver v).rsp = s.rsp := rfl
@[simp] theorem State.deliver_pending (s : State) (v : UnitValue) : (s.deliver v).pending = s.pending := rfl
@[simp] theorem State.deliver_resetCount (s : State) (v : UnitValue) : (s.deliver v).resetCount = s.resetCount := rfl
@[simp] theorem State.deliver_unitOut (s : State) (v : UnitValue) : (s.deliver v).unitOut = some v := rfl

@[simp] theorem State.issue_gen (s : State) (c : CmdWord) : (s.issue c).gen = s.gen := rfl
@[simp] theorem State.issue_degree (s : State) (c : CmdWord) : (s.issue c).degree = s.degree := rfl
@[simp] theorem State.issue_poly (s : State) (c : CmdWord) : (s.issue c).poly = s.poly := rfl
@[simp] theorem State.issue_init (s : State) (c : CmdWord) : (s.issue c).init = s.init := rfl
@[simp] theorem State.issue_refIn (s : State) (c : CmdWord) : (s.issue c).refIn = s.refIn := rfl
@[simp] theorem State.issue_refOut (s : State) (c : CmdWord) : (s.issue c).refOut = s.refOut := rfl
@[simp] theorem State.issue_xorOut (s : State) (c : CmdWord) : (s.issue c).xorOut = s.xorOut := rfl
@[simp] theorem State.issue_result (s : State) (c : CmdWord) : (s.issue c).result = s.result := rfl
@[simp] theorem State.issue_status (s : State) (c : CmdWord) : (s.issue c).status = s.status := rfl
@[simp] theorem State.issue_h1 (s : State) (c : CmdWord) : (s.issue c).h1 = s.h1 := rfl
@[simp] theorem State.issue_h2 (s : State) (c : CmdWord) : (s.issue c).h2 = s.h2 := rfl
@[simp] theorem State.issue_rsp (s : State) (c : CmdWord) : (s.issue c).rsp = s.rsp := rfl
@[simp] theorem State.issue_pending (s : State) (c : CmdWord) : (s.issue c).pending = .command c :: s.pending := rfl
@[simp] theorem State.issue_resetCount (s : State) (c : CmdWord) : (s.issue c).resetCount = s.resetCount := rfl
@[simp] theorem State.issue_unitOut (s : State) (c : CmdWord) : (s.issue c).unitOut = s.unitOut := rfl

@[simp] theorem State.applyReset_gen (s : State) : s.applyReset.gen = Config.resetGen (s.resetCount + 1) := rfl
@[simp] theorem State.applyReset_degree (s : State) : s.applyReset.degree = Config.resetDegree (s.resetCount + 1) := rfl
@[simp] theorem State.applyReset_poly (s : State) : s.applyReset.poly = Config.resetPoly (s.resetCount + 1) := rfl
@[simp] theorem State.applyReset_init (s : State) : s.applyReset.init = Config.resetInit (s.resetCount + 1) := rfl
@[simp] theorem State.applyReset_refIn (s : State) : s.applyReset.refIn = Config.resetRefIn (s.resetCount + 1) := rfl
@[simp] theorem State.applyReset_refOut (s : State) : s.applyReset.refOut = Config.resetRefOut (s.resetCount + 1) := rfl
@[simp] theorem State.applyReset_xorOut (s : State) : s.applyReset.xorOut = Config.resetXorOut (s.resetCount + 1) := rfl
@[simp] theorem State.applyReset_result (s : State) : s.applyReset.result = Config.resetResult (s.resetCount + 1) := rfl
@[simp] theorem State.applyReset_status (s : State) : s.applyReset.status = Status.cleared := rfl
@[simp] theorem State.applyReset_h1 (s : State) : s.applyReset.h1 = Config.resetH1 (s.resetCount + 1) := rfl
@[simp] theorem State.applyReset_h2 (s : State) : s.applyReset.h2 = Config.resetH2 (s.resetCount + 1) := rfl
@[simp] theorem State.applyReset_rsp (s : State) : s.applyReset.rsp = none := rfl
@[simp] theorem State.applyReset_pending (s : State) : s.applyReset.pending = s.pending := rfl
@[simp] theorem State.applyReset_resetCount (s : State) : s.applyReset.resetCount = s.resetCount + 1 := rfl
@[simp] theorem State.applyReset_unitOut (s : State) : s.applyReset.unitOut = none := rfl

@[simp] theorem Status.afterCfg_cfgValid (st : Status) : st.afterCfg.cfgValid = true := rfl
@[simp] theorem Status.afterCfg_done (st : Status) : st.afterCfg.done = false := rfl
@[simp] theorem Status.afterCfg_errCfg (st : Status) : st.afterCfg.errCfg = st.errCfg := rfl
@[simp] theorem Status.afterCfg_errProto (st : Status) : st.afterCfg.errProto = st.errProto := rfl
@[simp] theorem Status.afterData_cfgValid (st : Status) : st.afterData.cfgValid = st.cfgValid := rfl
@[simp] theorem Status.afterData_done (st : Status) : st.afterData.done = false := rfl
@[simp] theorem Status.afterData_errCfg (st : Status) : st.afterData.errCfg = st.errCfg := rfl
@[simp] theorem Status.afterData_errProto (st : Status) : st.afterData.errProto = st.errProto := rfl
@[simp] theorem Status.afterFin_cfgValid (st : Status) : st.afterFin.cfgValid = st.cfgValid := rfl
@[simp] theorem Status.afterFin_done (st : Status) : st.afterFin.done = true := rfl
@[simp] theorem Status.afterFin_errCfg (st : Status) : st.afterFin.errCfg = st.errCfg := rfl
@[simp] theorem Status.afterFin_errProto (st : Status) : st.afterFin.errProto = st.errProto := rfl
@[simp] theorem Status.afterError_invalidConfiguration_cfgValid (st : Status) :
    (st.afterError .invalidConfiguration).cfgValid = false := rfl
@[simp] theorem Status.afterError_invalidConfiguration_done (st : Status) :
    (st.afterError .invalidConfiguration).done = false := rfl
@[simp] theorem Status.afterError_invalidConfiguration_errCfg (st : Status) :
    (st.afterError .invalidConfiguration).errCfg = true := rfl
@[simp] theorem Status.afterError_invalidConfiguration_errProto (st : Status) :
    (st.afterError .invalidConfiguration).errProto = st.errProto := rfl
@[simp] theorem Status.afterError_protocolError_cfgValid (st : Status) :
    (st.afterError .protocolError).cfgValid = st.cfgValid := rfl
@[simp] theorem Status.afterError_protocolError_done (st : Status) :
    (st.afterError .protocolError).done = st.done := rfl
@[simp] theorem Status.afterError_protocolError_errCfg (st : Status) :
    (st.afterError .protocolError).errCfg = st.errCfg := rfl
@[simp] theorem Status.afterError_protocolError_errProto (st : Status) :
    (st.afterError .protocolError).errProto = true := rfl
@[simp] theorem Status.cleared_cfgValid : Status.cleared.cfgValid = false := rfl
@[simp] theorem Status.cleared_done : Status.cleared.done = false := rfl
@[simp] theorem Status.cleared_errCfg : Status.cleared.errCfg = false := rfl
@[simp] theorem Status.cleared_errProto : Status.cleared.errProto = false := rfl

end Sys2Proof.Machine
end

