-- ==== Sys2Proof/Laws/Exec.lean ====
section
/-! SUPPORT. What `exec` and `step` can do, said once: one inversion lemma each. -/

namespace Sys2Proof.Machine

/-- The commands that raise ProtocolError in the state `s` (R175). -/
def RaisesProtocolError (i : Instr) (s : State) : Prop :=
  ((∃ din, i = .data din) ∧ s.status.cfgValid = false) ∨ (i = .fin ∧ s.status.cfgValid = false) ∨
    ∃ low, i = .reserved low

theorem exec_cfgCommand_valid {d : Descriptor} (h : d.valid = true) (s : State) :
    exec (cfgCommand d) s = .next (s.configure d.degree d.poly d.init d.refIn d.refOut d.xorOut) := if_pos h

theorem exec_cfgCommand_invalid {d : Descriptor} (h : d.valid = false) (s : State) :
    exec (cfgCommand d) s = .next (s.raise .invalidConfiguration) :=
  if_neg (by rw [Descriptor.valid] at h; rw [h]; exact Bool.false_ne_true)

theorem exec_data_configured {s : State} (h : s.status.cfgValid = true) (din : Byte) :
    exec (.data din) s = .next (s.foldByte din) := if_pos h

theorem exec_fin_configured {s : State} (h : s.status.cfgValid = true) : exec .fin s = .next s.finish := if_pos h

theorem exec_raisesProtocolError {i : Instr} {s : State} (h : RaisesProtocolError i s) :
    exec i s = .next (s.raise .protocolError) := by
  rcases h with ⟨⟨din, rfl⟩, h⟩ | ⟨rfl, h⟩ | ⟨low, rfl⟩
  · exact if_neg (by rw [h]; exact Bool.false_ne_true)
  · exact if_neg (by rw [h]; exact Bool.false_ne_true)
  · rfl

/-- Everything an instruction can do. -/
theorem exec_cases (i : Instr) (s : State) :
    (i = .nop ∧ exec i s = .next s.respondOk) ∨
    (∃ d : Descriptor, i = cfgCommand d ∧ d.valid = true ∧
      exec i s = .next (s.configure d.degree d.poly d.init d.refIn d.refOut d.xorOut)) ∨
    (∃ d : Descriptor, i = cfgCommand d ∧ d.valid = false ∧ exec i s = .next (s.raise .invalidConfiguration)) ∨
    (∃ din, i = .data din ∧ s.status.cfgValid = true ∧ exec i s = .next (s.foldByte din)) ∨
    (i = .fin ∧ s.status.cfgValid = true ∧ exec i s = .next s.finish) ∨
    (RaisesProtocolError i s ∧ exec i s = .next (s.raise .protocolError)) ∨
    (i.isCommand = false ∧ ∃ v, exec i s = .next (s.deliver v)) := by
  cases i with
  | nop => exact .inl ⟨rfl, rfl⟩
  | cfg degree poly init refIn refOut xorOut =>
    let d : Descriptor := ⟨degree, poly, init, refIn, refOut, xorOut⟩
    cases h : d.valid
    · exact .inr (.inr (.inl ⟨d, rfl, h, exec_cfgCommand_invalid h s⟩))
    · exact .inr (.inl ⟨d, rfl, h, exec_cfgCommand_valid h s⟩)
  | data din =>
    cases h : s.status.cfgValid
    · have hp : RaisesProtocolError (.data din) s := .inl ⟨⟨din, rfl⟩, h⟩
      exact .inr (.inr (.inr (.inr (.inr (.inl ⟨hp, exec_raisesProtocolError hp⟩)))))
    · exact .inr (.inr (.inr (.inl ⟨din, rfl, rfl, exec_data_configured h din⟩)))
  | fin =>
    cases h : s.status.cfgValid
    · have hp : RaisesProtocolError .fin s := .inr (.inl ⟨rfl, h⟩)
      exact .inr (.inr (.inr (.inr (.inr (.inl ⟨hp, exec_raisesProtocolError hp⟩)))))
    · exact .inr (.inr (.inr (.inr (.inl ⟨rfl, rfl, exec_fin_configured h⟩))))
  | reserved low => exact .inr (.inr (.inr (.inr (.inr (.inl ⟨.inr (.inr ⟨low, rfl⟩), rfl⟩)))))
  | get | set | getBit | setBit | serial | parallel | buildH1 | buildH2 | rev8 | fold | revN | finalize =>
    exact .inr (.inr (.inr (.inr (.inr (.inr ⟨rfl, _, rfl⟩)))))

theorem nextInput_cons {s : State} {input : HostInput} {rest : List HostInput} (h : s.pending = input :: rest) :
    s.nextInput = some (input, { s with pending := rest }) := by
  simp [State.nextInput, h]

/-- Everything a step can do. -/
theorem step_cases (s : State) :
    (s.pending = [] ∧ step s = .next s) ∨
    ∃ rest, (s.pending = .idle :: rest ∧ step s = .next { s with pending := rest }) ∨
      (∃ cmd, s.pending = .command cmd :: rest ∧ step s = exec (decode cmd) { s with pending := rest }) ∨
      ((s.pending = .reset :: rest ∨ ∃ cmd, s.pending = .resetDuring cmd :: rest) ∧
        step s = .next (State.applyReset { s with pending := rest })) := by
  cases h : s.pending with
  | nil => exact .inl ⟨rfl, by simp [step, State.nextInput, h]⟩
  | cons input rest =>
    refine .inr ⟨rest, ?_⟩
    have hn := nextInput_cons h
    cases input with
    | idle => exact .inl ⟨rfl, by simp [step, hn]⟩
    | command cmd => exact .inr (.inl ⟨cmd, rfl, by simp [step, hn]⟩)
    | reset => exact .inr (.inr ⟨.inl rfl, by simp [step, hn]⟩)
    | resetDuring cmd => exact .inr (.inr ⟨.inr ⟨cmd, rfl⟩, by simp [step, hn]⟩)

/-- A run's first step, for any machine. -/
theorem run_succ_next (M : Host.Core) {s t : M.State} (h : M.step s = .next t) (n : Nat) :
    M.run (n + 1) s = M.run n t := by
  simp [Host.Core.run, h]

/-- A run's first step. -/
theorem core_run_succ_next {s t : State} (h : step s = .next t) (n : Nat) :
    Host.Core.run Sys2Proof.core (n + 1) s = Host.Core.run Sys2Proof.core n t :=
  run_succ_next Sys2Proof.core h n

end Sys2Proof.Machine
end

