-- ==== Sys2Proof/Laws/PerInstr.lean ====
section
/-! SUPPORT. Statements made for every instruction as syntax, one lemma per constructor of `Instr`. -/

namespace Sys2Proof.Laws.HasEncoding

/-- An instruction has a command word exactly when it is one of the command rows of the table: the internal functions have
no encoding, so the host cannot invoke them singly (spec/30_encoding.md R85). -/
def Statement (i : Instr) : Prop := (encode i).isSome = i.isCommand

theorem nop : Statement .nop := rfl
theorem cfg (degree : DegreeBits) (poly init : Word) (refIn refOut : Bool) (xorOut : Word) :
    Statement (.cfg degree poly init refIn refOut xorOut) := rfl
theorem data (din : Byte) : Statement (.data din) := rfl
theorem fin : Statement .fin := rfl
theorem reserved (low : BitVec 2) : Statement (.reserved low) := rfl
theorem get (v : Word) : Statement (.get v) := rfl
theorem set (value : Word) : Statement (.set value) := rfl
theorem getBit (v : Word) (i : BitIndex) : Statement (.getBit v i) := rfl
theorem setBit (v : Word) (i : BitIndex) (b : Bool) : Statement (.setBit v i b) := rfl
theorem serial (prev : Word) (din : Bool) (poly : Word) (deg : DegreeBits) : Statement (.serial prev din poly deg) := rfl
theorem parallel (n : Nat) (data init poly : Word) (deg : DegreeBits) : Statement (.parallel n data init poly deg) := rfl
theorem buildH1 (poly : Word) (deg : DegreeBits) : Statement (.buildH1 poly deg) := rfl
theorem buildH2 (poly : Word) (deg : DegreeBits) : Statement (.buildH2 poly deg) := rfl
theorem rev8 (b : Byte) : Statement (.rev8 b) := rfl
theorem fold (gen : Word) (byte : Byte) (h1 : Vector Word 8) (h2 : List Word) (deg : DegreeBits) (refIn : Bool) :
    Statement (.fold gen byte h1 h2 deg refIn) := rfl
theorem revN (v : Word) (deg : DegreeBits) : Statement (.revN v deg) := rfl
theorem finalize (gen : Word) (deg : DegreeBits) (refOut : Bool) (xorOut : Word) :
    Statement (.finalize gen deg refOut xorOut) := rfl

end Sys2Proof.Laws.HasEncoding
end

