-- ==== Sys2Proof/Laws/Units.lean ====
section
/-! SUPPORT. What each unit function computes, bit by bit: one lemma per function. -/

namespace Sys2Proof.Machine

/-- Every bit of a serial step (R100), for a degree within the container. -/
theorem serial_getLsbD {prev : Word} {din : Bool} {poly : Word} {deg : Nat} (h1 : 1 ≤ deg) (hd : deg ≤ 32) (i : Nat) :
    (serial prev din poly deg).getLsbD i =
      (decide (i < deg) &&
        ((if i = 0 then din else prev.getLsbD (i - 1)) ^^ (poly.getLsbD i && prev.getLsbD (deg - 1)))) := by
  rw [serial, Nat.sub_add_cancel h1, fillBits_getLsbD hd, topBit_of_bounds h1 hd]
  by_cases hi : i < deg
  · rw [bitAt_of_lt (by omega) poly, bitAt_of_lt (by omega) prev]
    by_cases h0 : i = 0 <;> simp [h0]
  · simp [hi]

theorem inRange_serial {prev : Word} {din : Bool} {poly : Word} {deg : Nat} (h1 : 1 ≤ deg) :
    inRange deg (serial prev din poly deg) = true :=
  inRange_fillBits (Nat.le_of_eq (Nat.sub_add_cancel h1)) _

@[simp] theorem injected_zero (i : Nat) : injected 0#32 i = false := by
  unfold injected
  split
  · next h => simp [bitAt_of_lt (show i < 32 by omega)]
  · rfl

@[simp] theorem parallel_zero (data init poly : Word) (deg : Nat) : parallel 0 data init poly deg = init := rfl

/-- One more zero-input clock (R106). -/
theorem parallel_succ (n : Nat) (init poly : Word) (deg : Nat) :
    parallel (n + 1) 0#32 init poly deg = serial (parallel n 0#32 init poly deg) false poly deg := by
  rw [parallel, injected_zero]

@[simp] theorem buildH1_getElem (poly : Word) (deg : Nat) (c : Nat) (h : c < 8) :
    (buildH1 poly deg)[c] = parallel c 0#32 poly poly deg := by
  simp [buildH1, h1Column]

@[simp] theorem buildH2_length (poly : Word) (deg : Nat) : (buildH2 poly deg).length = deg := by
  simp [buildH2]

theorem buildH2_getElem? (poly : Word) {deg n : Nat} (h : n < deg) :
    (buildH2 poly deg)[n]? = some (parallel 8 0#32 (unitAt n) poly deg) := by
  simp [buildH2, h, h2Column]

theorem rev8_getLsbD (b : Byte) (d : Nat) (h : d ≤ 7) : (rev8 b).getLsbD d = b.getLsbD (7 - d) := by
  have := fillByte_getLsbD (fun d => byteBit b d.rev) ⟨d, by omega⟩
  simp only [rev8, byteBit, Fin.rev] at *
  rw [this]
  congr 1
  omega

theorem rowH1_getLsbD (h1 : Vector Word 8) {i : Nat} (hi : i < 32) (c : ByteIndex) :
    (rowH1 h1 i).getLsbD c.val = h1[c].getLsbD i := by
  rw [rowH1, fillByte_getLsbD, bitAt_of_lt hi]

theorem rowH2_getLsbD (h2 : List Word) {deg i : Nat} (hd : deg ≤ 32) (hi : i < 32) (c : Nat) :
    (rowH2 h2 deg i).getLsbD c = (decide (c < deg) && (h2At h2 c).getLsbD i) := by
  rw [rowH2, fillBits_getLsbD hd, bitAt_of_lt hi]

theorem dataContribution_eq (h1 : Vector Word 8) (rev : Byte) {i : Nat} (hi : i < 32) :
    dataContribution h1 rev i =
      xorOver 8 (fun j => ((h1.toList[j]?).getD 0#32).getLsbD i) (fun j => rev.getLsbD j) := by
  unfold dataContribution
  refine xorOver_congr fun j hj => ⟨?_, fun _ => rfl⟩
  have := rowH1_getLsbD h1 hi ⟨j, hj⟩
  rw [this]
  simp [hj]

theorem stateContribution_eq (h2 : List Word) {deg i : Nat} (hd : deg ≤ 32) (gen : Word) (hi : i < 32) :
    stateContribution h2 deg gen i =
      xorOver deg (fun j => (h2At h2 j).getLsbD i) (fun j => gen.getLsbD j) := by
  unfold stateContribution
  refine xorOver_congr fun j hj => ?_
  have hj32 : j < 32 := by omega
  simp [bitAt_of_lt hj32, rowH2_getLsbD h2 hd hi, hj]

/-- Every bit of the fold (R122 to R124): the selected bits of row `i` of both matrices. -/
theorem fold_getLsbD {gen : Word} {byte : Byte} {h1 : Vector Word 8} {h2 : List Word} {deg : Nat} {refIn : Bool}
    (hd : deg ≤ 32) (i : Nat) :
    (fold gen byte h1 h2 deg refIn).getLsbD i =
      (decide (i < deg) &&
        (xorOver 8 (fun j => ((h1.toList[j]?).getD 0#32).getLsbD i) (fun j => (inputByte refIn byte).getLsbD j) ^^
         xorOver deg (fun j => (h2At h2 j).getLsbD i) (fun j => gen.getLsbD j))) := by
  rw [fold, fillBits_getLsbD hd]
  by_cases hi : i < deg
  · have h32 : i < 32 := by omega
    rw [dataContribution_eq h1 _ h32, stateContribution_eq h2 hd gen h32]
  · simp [hi]

theorem inRange_fold {gen : Word} {byte : Byte} {h1 : Vector Word 8} {h2 : List Word} {deg : Nat} {refIn : Bool} :
    inRange deg (fold gen byte h1 h2 deg refIn) = true := inRange_fillBits (Nat.le_refl deg) _

theorem revN_getLsbD {v : Word} {deg : Nat} (hd : deg ≤ 32) (i : Nat) :
    (revN v deg).getLsbD i = (decide (i < deg) && v.getLsbD (deg - 1 - i)) := by
  rw [revN, fillBits_getLsbD hd]
  by_cases hi : i < deg
  · rw [bitAt_of_lt (by omega)]
  · simp [hi]

end Sys2Proof.Machine
end

