-- ==== Sys2Proof/Machine/Asm.lean ====
section
/-! DEFINITION. The textual syntax of commands and the two pseudo-commands (spec/30_encoding.md R82, R83, R84): what an
assembler reads, one line at a time, as lists of characters. The engine never sees it. -/

namespace Sys2Proof.Machine

/-- A line of source text. -/
abbrev Text := List Char

/-- What one source line says (R82, R84). -/
inductive SourceLine where
  /-- An empty line, or a comment alone. -/
  | blank
  /-- One of the four commands. -/
  | command (i : Instr)
  /-- The pseudo-command `MSG`. -/
  | msg (message : List Byte)
  /-- The pseudo-command `COMPUTE`. -/
  | compute (d : Descriptor) (message : List Byte)
  deriving DecidableEq, Repr

/-- The commands a line stands for (R84). -/
def SourceLine.expand : SourceLine → List Instr
  | .blank => []
  | .command i => [i]
  | .msg message => msgCommands message
  | .compute d message => computeCommands d message

/-- The line up to the `;` that starts a comment; a `;` inside a quoted message is text (R82; assumption log 7). -/
def stripComment (quoted : Bool) : Text → Text
  | [] => []
  | c :: rest =>
    if c = '"' then c :: stripComment (!quoted) rest
    else if c = ';' ∧ quoted = false then []
    else c :: stripComment quoted rest

/-- The text after any leading spaces. -/
def skipSpaces : Text → Text
  | [] => []
  | c :: rest => if c = ' ' then skipSpaces rest else c :: rest

/-- The text after the word `w`, if it begins with it. -/
def eat : Text → Text → Option Text
  | [], t => some t
  | _ :: _, [] => none
  | a :: w, c :: t => if a = c then eat w t else none

/-- The value of a digit of base 10 or 16. -/
def digit (base : Nat) (c : Char) : Option Nat :=
  let n := c.toNat
  if 48 ≤ n ∧ n ≤ 57 then some (n - 48)
  else if base = 16 ∧ 97 ≤ n ∧ n ≤ 102 then some (n - 87)
  else if base = 16 ∧ 65 ≤ n ∧ n ≤ 70 then some (n - 55)
  else none

/-- The number that the leading digits write, continuing `acc`, and the text after them. -/
def digits (base acc : Nat) : Text → Nat × Text
  | [] => (acc, [])
  | c :: rest =>
    match digit base c with
    | some d => digits base (acc * base + d) rest
    | none => (acc, c :: rest)

/-- A number of at least one digit. -/
def number (base : Nat) : Text → Option (Nat × Text)
  | [] => none
  | c :: rest => (digit base c).map fun d => digits base d rest

/-- `<hex>` that fits in `w` bits, written with `0x` or without it: both `init=0x00` and `init=0` are operands of the spec's
own lines (R82, R83; spec/95_test_vectors.md 4.5). The digits are hexadecimal either way. -/
def hexField (w : Nat) (t : Text) : Option (BitVec w × Text) :=
  match number 16 ((eat ['0', 'x'] t).getD t) with
  | some (n, rest) => if n < 2 ^ w then some (BitVec.ofNat w n, rest) else none
  | none => none

/-- `<n>` in decimal that fits in `w` bits (R82). -/
def decField (w : Nat) (t : Text) : Option (BitVec w × Text) :=
  match number 10 t with
  | some (n, rest) => if n < 2 ^ w then some (BitVec.ofNat w n, rest) else none
  | none => none

/-- `<0|1>` (R82). -/
def flagField : Text → Option (Bool × Text)
  | [] => none
  | c :: rest => if c = '0' then some (false, rest) else if c = '1' then some (true, rest) else none

/-- The text after one or more spaces; none where there is no space. -/
def spaced : Text → Option Text
  | [] => none
  | c :: rest => if c = ' ' then some (skipSpaces rest) else none

/-- After one or more spaces, the word `w`. -/
def eatWord (w t : Text) : Option Text := (spaced t).bind (eat w)

/-- The six operands of `CFG`, all required, in the order of R82. -/
def descriptorFields (t : Text) : Option (Descriptor × Text) := do
  let t ← eatWord ['d', 'e', 'g', '='] t
  let (degree, t) ← decField 6 t
  let t ← eatWord ['p', 'o', 'l', 'y', '='] t
  let (poly, t) ← hexField 32 t
  let t ← eatWord ['i', 'n', 'i', 't', '='] t
  let (init, t) ← hexField 32 t
  let t ← eatWord ['r', 'e', 'f', 'i', 'n', '='] t
  let (refIn, t) ← flagField t
  let t ← eatWord ['r', 'e', 'f', 'o', 'u', 't', '='] t
  let (refOut, t) ← flagField t
  let t ← eatWord ['x', 'o', 'r', 'o', 'u', 't', '='] t
  let (xorOut, t) ← hexField 32 t
  return ({ degree := degree, poly := poly, init := init, refIn := refIn, refOut := refOut, xorOut := xorOut }, t)

/-- The ASCII bytes up to the closing quote, after which only spaces stand. -/
def quotedBytes : Text → Option (List Byte)
  | [] => none
  | c :: rest =>
    if c = '"' then (if skipSpaces rest = [] then some [] else none)
    else if c.toNat < 128 then (quotedBytes rest).map (BitVec.ofNat 8 c.toNat :: ·)
    else none

/-- `<b0>, <b1>, …`, at most `fuel` bytes. R84 gives the bytes no base: that each is read as hexadecimal, with `0x` or without
it, like the byte of `DATA`, is the model's choice (DESIGN CHOICE, assumption log 7). -/
def byteList (fuel : Nat) (t : Text) : Option (List Byte) :=
  match fuel with
  | 0 => none
  | fuel + 1 =>
    match hexField 8 (skipSpaces t) with
    | none => none
    | some (b, rest) =>
      match skipSpaces rest with
      | [] => some [b]
      | c :: rest => if c = ',' then (byteList fuel rest).map (b :: ·) else none

/-- The operand of `MSG`, after its mnemonic or its comma: quoted text, bytes, or nothing at all (R84). -/
def message (t : Text) : Option (List Byte) :=
  match skipSpaces t with
  | [] => some []
  | c :: rest => if c = '"' then quotedBytes rest else byteList (rest.length + 1) (c :: rest)

/-- `x` if nothing but spaces is left. -/
def atEnd {α : Type} (x : α) (t : Text) : Option α := if skipSpaces t = [] then some x else none

/-- The operand of `DATA` (R82). -/
def dataLine (t : Text) : Option SourceLine :=
  ((spaced t).bind (hexField 8)).bind fun (b, t) => atEnd (.command (.data b)) t

/-- The operands of `CFG` (R82). -/
def cfgLine (t : Text) : Option SourceLine :=
  (descriptorFields t).bind fun (d, t) => atEnd (.command (cfgCommand d)) t

/-- What follows the mnemonic `MSG` (R84). -/
def msgLine (t : Text) : Option SourceLine :=
  if t = [] then some (.msg []) else ((spaced t).bind message).map .msg

/-- What follows the mnemonic `COMPUTE`: the operands of `CFG`, a comma, the message (R84). -/
def computeLine (t : Text) : Option SourceLine :=
  (descriptorFields t).bind fun (d, t) => ((eat [','] (skipSpaces t)).bind message).map (.compute d)

/-- One source line (R82, R84). -/
def parseLine (line : Text) : Option SourceLine :=
  let t := skipSpaces (stripComment false line)
  if t = [] then some .blank
  else (eat ['N', 'O', 'P'] t).bind (atEnd (.command .nop))
    <|> (eat ['F', 'I', 'N'] t).bind (atEnd (.command .fin))
    <|> (eat ['D', 'A', 'T', 'A'] t).bind dataLine
    <|> (eat ['C', 'F', 'G'] t).bind cfgLine
    <|> (eat ['M', 'S', 'G'] t).bind msgLine
    <|> (eat ['C', 'O', 'M', 'P', 'U', 'T', 'E'] t).bind computeLine

/-- The commands of a whole source text, a line at a time; none where a line is not of the syntax. -/
def parseProgram : List Text → Option (List Instr)
  | [] => some []
  | line :: rest => (parseLine line).bind fun l => (parseProgram rest).map (l.expand ++ ·)

/-- The command words of a whole source text, every ignored bit 0 (R83). -/
def assemble (lines : List Text) : Option (List CmdWord) :=
  (parseProgram lines).bind fun is => is.mapM encode

end Sys2Proof.Machine
end

