-- ==== Sys2Proof/Tests/Slice0.lean ====
section
/-! SUPPORT. Tests: the decoding of words written out from the spec's encodings, one or two steps per instruction with
results from spec/95_test_vectors.md and the rules' own examples, ill-formed terms, and a witness for the hypotheses of
each statement of Certificates/Slice0/Obligations.lean. -/

namespace Sys2Proof.Tests

open Sys2Proof Sys2Proof.Machine

/-- The next state, if there is one. -/
def next (o : Host.Outcome State Fault Refusal) : Option State :=
  match o with
  | .next t => some t
  | .fault _ => none
  | .refused _ => none

/-- What an internal function leaves at its unit's output. -/
def output (i : Instr) : Option UnitValue := (next (exec i State.reset)).bind (·.unitOut)

/-- The engine configured for CRC-8 (the example of R150), from reset. -/
def crc8 : State := State.reset.configure 8#6 0x07#32 0#32 false false 0#32

/-- CRC-8 in the middle of a message (95_test_vectors.md 4.5): `GEN = 97`. -/
def crc8Mid : State := { crc8 with gen := 0x97#32 }

/-- CRC-8 finished (95_test_vectors.md 4.5): `GEN = RESULT = F4`, `STATUS = 0011`. -/
def crc8Done : State := State.finish { crc8 with gen := 0xF4#32 }

/-- The descriptor of CRC-8. -/
def crc8Descriptor : Descriptor := ⟨8#6, 0x07#32, 0#32, false, false, 0#32⟩

/-! ### Decoding: words from R83 and 95_test_vectors.md 4.5 and section 6 -/

theorem test_decode_nop : decode 0x00000000_00000000_00000000_00000000#128 = .nop := by decide
theorem test_decode_nop_ignored_bits : decode 0xFFFFFFFF_FFFFFFFF_FFFFFFFF_FFFFFFF8#128 = .nop := by decide
/-- P4 line 6: degree 5, both reflections, from `w3_w2_w1_w0`. -/
theorem test_decode_cfg : decode 0x0000001F_0000001F_00000005_00062801#128 =
    .cfg 5#6 0x05#32 0x1F#32 true true 0x1F#32 := by decide
theorem test_decode_cfg_ignored_bits : decode 0x00000000_00000000_00000007_FFF847F9#128 =
    .cfg 8#6 0x07#32 0#32 false false 0#32 := by decide
theorem test_decode_data : decode 0x00000000_00000000_00000000_000001CA#128 = .data 0x39#8 := by decide
theorem test_decode_data_ignored_bits : decode 0xDEADBEEF_00000000_00000001_FFFFF98A#128 = .data 0x31#8 := by decide
theorem test_decode_fin : decode 0x00000000_00000000_FFFFFFFF_FFFFFFFB#128 = .fin := by decide
/-- P4 line 7: `cmd[2:0] = 101`. -/
theorem test_decode_reserved : decode 0x00000000_00000000_00000000_00000005#128 = .reserved 0b01#2 := by decide
theorem test_encode_cfg : encode (.cfg 32#6 0x04C11DB7#32 0xFFFFFFFF#32 true true 0xFFFFFFFF#32) =
    some 0xFFFFFFFF_FFFFFFFF_04C11DB7_00070001#128 := by decide
theorem test_encode_data : encode (.data 0x31#8) = some 0x18A#128 := by decide
theorem test_table_words : decodeTableWord 8 0 = some .nop ∧ decodeTableWord 8 2 = some (.data 0#8) ∧
    decodeTableWord 8 3 = some .fin ∧ decodeTableWord 8 4 = some (.reserved 0#2) ∧ decodeTableWord 136 0 = none := by decide

/-! ### Ill-formed terms, one for each check -/

theorem test_illFormed_serial_degree : (Instr.serial 0#32 false 0#32 6#6).wellFormed = false := by decide
theorem test_illFormed_parallel_degree : (Instr.parallel 8 0#32 0#32 0#32 0#6).wellFormed = false := by decide
theorem test_illFormed_buildH1_degree : (Instr.buildH1 0x07#32 6#6).wellFormed = false := by decide
theorem test_illFormed_buildH1_poly : (Instr.buildH1 0x107#32 8#6).wellFormed = false := by decide
theorem test_illFormed_buildH2_degree : (Instr.buildH2 0x07#32 33#6).wellFormed = false := by decide
theorem test_illFormed_buildH2_poly : (Instr.buildH2 0x10#32 4#6).wellFormed = false := by decide
theorem test_illFormed_fold_degree : (Instr.fold 0#32 0#8 (buildH1 0#32 6) (buildH2 0#32 6) 6#6 false).wellFormed = false := by
  decide
theorem test_illFormed_fold_columns : (Instr.fold 0#32 0#8 (buildH1 7#32 8) [] 8#6 false).wellFormed = false := by decide
theorem test_illFormed_revN_degree : (Instr.revN 0#32 3#6).wellFormed = false := by decide
theorem test_illFormed_finalize_degree : (Instr.finalize 0#32 9#6 false 0#32).wellFormed = false := by decide
theorem test_wellFormed_fold : (Instr.fold 0#32 0#8 (buildH1 7#32 8) (buildH2 7#32 8) 8#6 false).wellFormed = true := by
  decide

/-! ### Commands: 95_test_vectors.md 4.5 -/

theorem test_nop_at_reset : (next (exec .nop State.reset)).map (fun t => (t.statusPort, t.rspPort)) =
    some (0b0000#4, some 0#2) := by decide
theorem test_nop_keeps_done : (next (exec .nop crc8Done)).map (fun t => (t.statusPort, t.gen, t.result)) =
    some (0b0011#4, 0xF4#32, 0xF4#32) := by decide +kernel
/-- The example of R150, from row `1100` of 4.5: the sticky flags stay and block nothing (R181). -/
theorem test_cfg_crc8 : (next (exec (.cfg 8#6 0x07#32 0#32 false false 0#32)
    { State.reset with status := ⟨false, false, true, true⟩ })).map (fun t => (t.statusPort, t.h1.toList, t.h2)) =
    some (0b1101#4, [0x07#32, 0x0E#32, 0x1C#32, 0x38#32, 0x70#32, 0xE0#32, 0xC7#32, 0x89#32],
      [0x07#32, 0x0E#32, 0x1C#32, 0x38#32, 0x70#32, 0xE0#32, 0xC7#32, 0x89#32]) := by decide +kernel
/-- Row `0001, 97, 00` with `CFG deg=6`: the old configuration is lost, the error recorded. -/
theorem test_cfg_rejected : (next (exec (.cfg 6#6 0x03#32 0#32 false false 0#32) crc8Mid)).map
    (fun t => (t.statusPort, t.rspPort)) = some (0b0100#4, some 1#2) := by decide +kernel
/-- Row `97, 32` of 4.2. -/
theorem test_data_folds : (next (exec (.data 0x32#8) crc8Mid)).map (fun t => (t.gen, t.result, t.statusPort)) =
    some (0x72#32, 0#32, 0b0001#4) := by decide +kernel
/-- Row `0011, F4, F4` with `DATA 0x00`: `DONE` cleared, `RESULT` stale. -/
theorem test_data_after_fin : (next (exec (.data 0x00#8) crc8Done)).map (fun t => (t.gen, t.result, t.statusPort)) =
    some (0xC2#32, 0xF4#32, 0b0001#4) := by decide +kernel
/-- The example of R156. -/
theorem test_fin_finalizes : (next (exec .fin { crc8 with gen := 0xF4#32 })).map
    (fun t => (t.result, t.gen, t.statusPort, t.rspPort)) = some (0xF4#32, 0xF4#32, 0b0011#4, some 0#2) := by decide +kernel
theorem test_fin_at_reset : (next (exec .fin State.reset)).map (fun t => (t.statusPort, t.rspPort)) =
    some (0b1000#4, some 2#2) := by decide
/-- Row `0001, 97, 00` with a reserved word: the message in progress is undisturbed. -/
theorem test_reserved_keeps_message : (next (exec (.reserved 0b01#2) crc8Mid)).map
    (fun t => (t.gen, t.result, t.statusPort, t.rspPort)) = some (0x97#32, 0#32, 0b1001#4, some 2#2) := by decide +kernel

/-! ### Internal functions: examples of their rules and 95_test_vectors.md sections 2 to 4 -/

theorem test_get : output (.get 0x04C11DB7#32) = some (.vector 0x04C11DB7#32) := by decide
theorem test_set : output (.set 0xFFFFFFFF#32) = some (.vector 0xFFFFFFFF#32) := by decide
theorem test_getBit_top : output (.getBit 0x80000000#32 31) = some (.bit true) := by decide
theorem test_getBit_below : output (.getBit 0x80000000#32 30) = some (.bit false) := by decide
theorem test_setBit_top : output (.setBit 0#32 31 true) = some (.vector 0x80000000#32) := by decide
theorem test_setBit_clears : output (.setBit 0xFF#32 0 false) = some (.vector 0xFE#32) := by decide
theorem test_serial_feedback : output (.serial 0x80#32 true 0x07#32 8#6) = some (.vector 0x06#32) := by decide +kernel
theorem test_serial_degree_32 : output (.serial 0x7FFFFFFF#32 true 0x04C11DB7#32 32#6) = some (.vector 0xFFFFFFFF#32) := by
  decide +kernel
/-- R104 (b): clocks 8 and 9 inject 0, and bit 0 is never injected. -/
theorem test_parallel_nine_clocks : output (.parallel 9 0xFF#32 0#32 0x07#32 8#6) = some (.vector 0xFB#32) := by
  decide +kernel
theorem test_parallel_no_clock : output (.parallel 0 0#32 0x107#32 0x07#32 8#6) = some (.vector 0x107#32) := by
  decide +kernel
theorem test_buildH1_degree_5 : (match output (.buildH1 0x15#32 5#6) with
    | some (.columns8 h) => h.toList
    | _ => []) = [0x15#32, 0x1F#32, 0x0B#32, 0x16#32, 0x19#32, 0x07#32, 0x0E#32, 0x1C#32] := by decide +kernel
theorem test_buildH2_degree_4 : output (.buildH2 0x3#32 4#6) = some (.columns [0x5#32, 0xA#32, 0x7#32, 0xE#32]) := by
  decide +kernel
/-- 2.3: `H2[31]` and `H2[23]` for degree 32. -/
theorem test_h2_columns_degree_32 : h2Column 0x04C11DB7#32 32 31 = 0x690CE0EE#32 ∧
    h2Column 0x04C11DB7#32 32 23 = 0x80000000#32 := by decide +kernel
theorem test_rev8 : output (.rev8 0x31#8) = some (.byte 0x8C#8) := by decide
theorem test_fold_reflected : output (.fold 0x5#32 0xA7#8 (buildH1 0x3#32 4) (buildH2 0x3#32 4) 4#6 true) =
    some (.vector 0xE#32) := by decide +kernel
theorem test_fold_degree_7 : output (.fold 0#32 0x80#8 (buildH1 0x09#32 7) (buildH2 0x09#32 7) 7#6 false) =
    some (.vector 0x41#32) := by decide +kernel
theorem test_revN_degree_7 : output (.revN 0x4B#32 7#6) = some (.vector 0x69#32) := by decide +kernel
theorem test_revN_degree_32 : output (.revN 0x9B63D02C#32 32#6) = some (.vector 0x340BC6D9#32) := by decide +kernel
/-- The mask is never reversed. -/
theorem test_finalize_mask_not_reversed : output (.finalize 0x1D0F#32 16#6 true 0x0001#32) = some (.vector 0xF0B9#32) := by
  decide +kernel
theorem test_finalize_degree_5 : output (.finalize 0x12#32 5#6 true 0x03#32) = some (.vector 0x0A#32) := by decide +kernel

/-! ### The step, the ports, the host's tables and text -/

/-- The issued word runs as the first command after reset. -/
theorem test_step_issued_cfg : (next (step (State.reset.withFetchWord 72 0x0700004001))).map (·.statusPort) = some 0b0001#4 := by
  decide +kernel
theorem test_step_reset_abandons : (next (step { crc8Mid with pending := [.resetDuring 0x18A#128, .idle] })).map
    (fun t => (t.statusPort, t.rspPort, t.pending)) = some (0b0000#4, none, [.idle]) := by decide +kernel
theorem test_ports_configured : (crc8.resultPort, crc8.h1Port 7, crc8.h2Port 7, crc8.h2Port 8) =
    (some 0#32, some 0x89#32, some 0x89#32, none) := by decide +kernel
theorem test_ports_unconfigured : (State.reset.genPort, State.reset.h1Port 0, State.reset.h2Port 0) = (none, none, none) := by
  decide
/-- S1, the source's check value of "123456789" for CRC-8. -/
theorem test_computeCrc_crc8 : computeCrc crc8Descriptor
    [0x31#8, 0x32#8, 0x33#8, 0x34#8, 0x35#8, 0x36#8, 0x37#8, 0x38#8, 0x39#8] = 0xF4#32 := by decide +kernel
/-- R83: the worked example of `DATA`, with a comment (R82). -/
theorem test_assemble_data : assemble ["DATA 0x31 ; first byte".toList] = some [0x18A#128] := by decide +kernel
/-- R83: the worked example of `CFG`. -/
theorem test_assemble_cfg : assemble ["CFG deg=8 poly=0x07 init=0x00 refin=0 refout=0 xorout=0x00".toList] =
    some [0x00000000_00000000_00000007_00004001#128] := by decide +kernel
/-- 95_test_vectors.md 4.5: `<hex>` without `0x`. -/
theorem test_assemble_bare_hex : assemble ["CFG deg=8 poly=0x07 init=0 refin=0 refout=0 xorout=0".toList] =
    some [0x00000000_00000000_00000007_00004001#128] := by decide +kernel
/-- R84: `COMPUTE` with a quoted message, and with an empty one. -/
theorem test_parse_compute : parseProgram
    ["COMPUTE deg=8 poly=0x07 init=0x00 refin=0 refout=0 xorout=0x00, \"1;\"".toList, "MSG 0x31, 0xfF".toList] =
    some [cfgCommand crc8Descriptor, .data 0x31#8, .data 0x3B#8, .fin, .data 0x31#8, .data 0xFF#8] := by decide +kernel
theorem test_parse_rejects : parseLine "CFG deg=8 poly=0x07".toList = none ∧ parseLine "DATA 0x100".toList = none := by
  decide +kernel

/-! ### Witnesses: a concrete state and operands that meet the hypotheses of each statement that has any -/

theorem test_witness_NopChangesNothing : ∀ k, k ≤ 2 → (0xFFFFFFFF_FFFFFFFF_FFFFFFFF_FFFFFFF8#128 : CmdWord).getLsbD k = false := by
  decide
theorem test_witness_ReservedOpcodeRefused : (5#128 : CmdWord).getLsbD 2 = true ∧ (0xFFFFFFFC#128 : CmdWord).getLsbD 2 = true := by
  decide
theorem test_witness_DecodeEncodeEveryCommand : (Instr.cfg 63#6 0xFFFFFFFF#32 0#32 true false 1#32).isCommand = true := by decide
theorem test_witness_IgnoredBitsHaveNoEffect_opcode :
    (∀ k, k ≤ 2 → (3#128 : CmdWord).getLsbD k = (0xFFFFFFFB#128 : CmdWord).getLsbD k) ∧ opField 3#128 = 3#3 ∧ opField 8#128 = 0#3 := by
  decide
theorem test_witness_IgnoredBitsHaveNoEffect_data :
    (∀ k, k ≤ 2 → (0x18A#128 : CmdWord).getLsbD k = (0xFFFFF98A#128 : CmdWord).getLsbD k) ∧ opField 0x18A#128 = 2#3 ∧
      (∀ k, k ≤ 10 → 3 ≤ k → (0x18A#128 : CmdWord).getLsbD k = (0xFFFFF98A#128 : CmdWord).getLsbD k) := by decide
theorem test_witness_IgnoredBitsHaveNoEffect_cfg :
    (∀ k, k ≤ 2 → (0x700004001#128 : CmdWord).getLsbD k = (0x7FFF847F9#128 : CmdWord).getLsbD k) ∧ opField 0x700004001#128 = 1#3 ∧
      (∀ k, k < 128 → (11 ≤ k ∧ k ≤ 18) ∨ 32 ≤ k →
        (0x700004001#128 : CmdWord).getLsbD k = (0x7FFF847F9#128 : CmdWord).getLsbD k) := by decide +kernel
theorem test_witness_StepRunsIssuedCommand : (State.reset.issue 0x18A#128).pending = .command 0x18A#128 :: [] := rfl
theorem test_witness_IdleHoldsState : State.reset.pending = [] ∧ ({ crc8 with pending := [.idle] } : State).pending = .idle :: [] :=
  ⟨rfl, rfl⟩
theorem test_witness_ResetClearsStatus : ({ crc8Done with pending := [.reset] } : State).pending = .reset :: [] ∧
    ({ crc8Done with pending := [.resetDuring 3#128] } : State).pending = .resetDuring 3#128 :: [] := ⟨rfl, rfl⟩
theorem test_witness_CfgLoadsConfiguration : validConfig 4#6 0xF#32 0xF#32 0xF#32 = true ∧
    validConfig 32#6 0xFFFFFFFF#32 0xFFFFFFFF#32 0xFFFFFFFF#32 = true := by decide
theorem test_witness_CfgRejectedUnconfigures : validConfig 33#6 0#32 0#32 0#32 = false ∧
    validConfig 5#6 0#32 0#32 0x20#32 = false ∧ validConfig 8#6 0x107#32 0#32 0#32 = false := by decide
/-- For `DataFoldsOneByte`, `FinWritesResult` and `FinIsIdempotent`. -/
theorem test_witness_configured : crc8.status.cfgValid = true := by decide
/-- For `UnconfiguredDataAndFinRefused`. -/
theorem test_witness_unconfigured : State.reset.status.cfgValid = false := by decide
theorem test_witness_ProtocolErrorInExactlyThreeCases : (Instr.reserved 0#2).isCommand = true ∧ Instr.nop.isCommand = true := by
  decide
/-- For `TransactionComputesTheCrc`, `SplitMessageGivesSameResult`, `EmptyMessageIdentity` and
`TransactionIsDeterministic`. -/
theorem test_witness_validDescriptor : crc8Descriptor.valid = true := by decide
theorem test_witness_CfgForgetsThePast : crc8.status.errCfg = crc8Mid.status.errCfg ∧
    crc8.status.errProto = crc8Mid.status.errProto ∧ crc8Mid.SameOwn crc8 := ⟨rfl, rfl, rfl, rfl, rfl⟩
theorem test_witness_ControlStateTransitions : crc8.status.cfgValid = true ∧ State.reset.status.cfgValid = false := by decide
theorem test_witness_WhoWritesGenAndResult : exec (.data 0x31#8) crc8 = .next (crc8.foldByte 0x31#8) := rfl
theorem test_witness_CommandFrames_nop : exec .nop crc8 = .next crc8.respondOk := rfl
theorem test_witness_CommandFrames_cfg : exec (cfgCommand crc8Descriptor) State.reset = .next crc8 := rfl
theorem test_witness_CommandFrames_cfg_rejected : exec (cfgCommand { crc8Descriptor with degree := 6#6 }) crc8 =
    .next (crc8.raise .invalidConfiguration) ∧ ({ crc8Descriptor with degree := 6#6 } : Descriptor).valid = false :=
  ⟨rfl, by decide⟩
theorem test_witness_CommandFrames_fin : exec .fin crc8 = .next crc8.finish := rfl
theorem test_witness_CommandFrames_refused : exec .fin State.reset = .next (State.reset.raise .protocolError) ∧
    exec (.data 0#8) State.reset = .next (State.reset.raise .protocolError) := ⟨rfl, rfl⟩
theorem test_witness_CommandFrames_reserved : exec (.reserved 3#2) crc8 = .next (crc8.raise .protocolError) := rfl
theorem test_witness_InternalFunctionsWriteNoRegister : (Instr.rev8 0#8).isCommand = false := by decide
theorem test_witness_SetBitWritesOneBit : (30 : BitIndex) ≠ 31 := by decide
/-- The clauses of the serial step at bit 1, at bit `deg-1`, and at the first bit at or above the degree. -/
theorem test_witness_SerialStepBits : legalDegree 8#6 = true ∧ (1 ≤ 1 ∧ 1 < (8#6).toNat) ∧ (1 ≤ 7 ∧ 7 < (8#6).toNat) ∧ (8#6).toNat ≤ 8 := by
  decide
/-- For `SerialClosedForm`, `SerialIsLinear`, `ParallelComposes`, `ParallelRunsSerialClocks` and
`H1DeterminesThePolynomial`, at both ends of the degrees. -/
theorem test_witness_legalDegree_ends : legalDegree 4#6 = true ∧ legalDegree 32#6 = true := by decide
/-- For `MatrixColumns`, `MatrixColumnsAreInRange`, `FoldIsXorOfColumns` and `FoldIsEightMessageClocks`. -/
theorem test_witness_MatrixColumns : legalDegree 8#6 = true ∧ inRange (8#6).toNat 0xFF#32 = true ∧ 7 < (8#6).toNat := by decide
/-- Also for `FoldIsLinear`. Rows of the CRC-8 matrices at row 0 (R126): `r1_0 = r2_0 = C1`. -/
theorem test_witness_FoldBitsFromRows : legalDegree 8#6 = true ∧ (buildH2 7#32 8).length = (8#6).toNat ∧
    (∀ c : ByteIndex, (0xC1#8).getLsbD c.val = (buildH1 7#32 8)[c].getLsbD 0) ∧
    (∀ c : ByteIndex, (0xC1#32).getLsbD c.val = ((buildH2 7#32 8)[c.val]?.getD 0#32).getLsbD 0) ∧
    (∀ c, c < 32 → 8 ≤ c → (0xC1#32).getLsbD c = false) := by decide +kernel
theorem test_witness_RevNReversesTheLowBits : legalDegree 7#6 = true ∧ inRange (7#6).toNat 0x4B#32 = true ∧ 6 < (7#6).toNat := by
  decide
theorem test_witness_FinalizeReversesThenMasks : legalDegree 5#6 = true ∧ inRange (5#6).toNat 0x12#32 = true ∧
    inRange (5#6).toNat 0x03#32 = true := by decide
/-- The two kinds of column of `H2` at degree 16 meet at `n = 7` and `n = 8`. -/
theorem test_witness_H2IsShiftsAndH1 : legalDegree 16#6 = true ∧ inRange (16#6).toNat 0x1021#32 = true ∧
    7 + 8 ≤ (16#6).toNat - 1 ∧ ¬ 8 + 8 ≤ (16#6).toNat - 1 ∧
    (buildH2 0x1021#32 16)[7]? = some 0x8000#32 ∧ (buildH2 0x1021#32 16)[8]? = some 0x1021#32 := by decide +kernel
theorem test_witness_ZeroPolynomialShifts : legalDegree 16#6 = true ∧ 7 + 8 ≤ (16#6).toNat - 1 ∧ ¬ 15 + 8 ≤ (16#6).toNat - 1 := by
  decide
theorem test_witness_ZeroPolynomialClearsState :
    ({ degree := 16#6, poly := 0#32, init := 0xBEEF#32, refIn := false, refOut := false, xorOut := 0#32 } : Descriptor).valid = true ∧
      ((16#6).toNat + 7) / 8 ≤ [0#8, 0#8].length := by decide
theorem test_witness_DegreeEightFoldsStateLikeByte : inRange 8 0x07#32 = true := by decide
theorem test_witness_EveryStepKeepsWidths : crc8.WidthInv ∧ step crc8 = .next crc8 :=
  ⟨fun _ => ⟨by decide, by decide +kernel, by decide +kernel, by decide +kernel, by decide +kernel, by decide +kernel,
    by decide +kernel, by decide +kernel, List.all_eq_true.mp (by decide +kernel : crc8.h2.all (inRange crc8.deg) = true)⟩, rfl⟩
theorem test_witness_EveryStepKeepsMatrices : crc8.MatrixInv ∧ step (crc8.issue 2#128) = .next (crc8.foldByte 0#8) :=
  ⟨fun _ => ⟨rfl, rfl⟩, rfl⟩
theorem test_witness_EveryStepKeepsDoneMeaning : crc8Done.DoneInv ∧ crc8Done.status.done = true ∧ step crc8Done = .next crc8Done :=
  ⟨fun _ => ⟨rfl, rfl⟩, rfl, rfl⟩
theorem test_witness_IssuedWordsComputeTheCrc : crc8Descriptor.valid = true ∧
    (computeCommands crc8Descriptor [0x31#8]).mapM encode = some [0x700004001#128, 0x18A#128, 3#128] ∧
    ({ crc8 with pending := [.command 0x700004001#128, .command 0x18A#128, .command 3#128] } : State).pending =
      [0x700004001#128, 0x18A#128, 3#128].map HostInput.command ++ [] := ⟨by decide, by decide, rfl⟩
theorem test_witness_EnginesAreIndependent : (0 : Fin 2) ≠ 1 := by decide

end Sys2Proof.Tests
end

namespace Sys2Proof.Machine

/-! ### What an instruction can answer -/

/-- Everything an instruction can do, read off the state it answers. -/
theorem exec_next_cases {i : Instr} {s t : State} (h : exec i s = .next t) :
    (i = .nop ∧ t = s.respondOk) ∨
    (∃ d : Descriptor, i = cfgCommand d ∧ d.valid = true ∧
      t = s.configure d.degree d.poly d.init d.refIn d.refOut d.xorOut) ∨
    (∃ d : Descriptor, i = cfgCommand d ∧ d.valid = false ∧ t = s.raise .invalidConfiguration) ∨
    (∃ din, i = .data din ∧ s.status.cfgValid = true ∧ t = s.foldByte din) ∨
    (i = .fin ∧ s.status.cfgValid = true ∧ t = s.finish) ∨
    (RaisesProtocolError i s ∧ t = s.raise .protocolError) ∨
    (i.isCommand = false ∧ ∃ v, t = s.deliver v) := by
  simpa only [h, Host.Outcome.next.injEq] using exec_cases i s

theorem exec_nop_next {s t : State} (h : exec .nop s = .next t) : t = s.respondOk :=
  (Host.Outcome.next.inj h).symm

theorem exec_reserved_next {s t : State} {low : BitVec 2} (h : exec (.reserved low) s = .next t) :
    t = s.raise .protocolError :=
  (Host.Outcome.next.inj h).symm

theorem exec_cfgCommand_next {d : Descriptor} {s t : State} (h : exec (cfgCommand d) s = .next t) :
    (d.valid = true ∧ t = s.configure d.degree d.poly d.init d.refIn d.refOut d.xorOut) ∨
      (d.valid = false ∧ t = s.raise .invalidConfiguration) := by
  cases hd : d.valid
  · exact .inr ⟨rfl, Host.Outcome.next.inj (h.symm.trans (exec_cfgCommand_invalid hd s))⟩
  · exact .inl ⟨rfl, Host.Outcome.next.inj (h.symm.trans (exec_cfgCommand_valid hd s))⟩

theorem exec_data_next {din : Byte} {s t : State} (h : exec (.data din) s = .next t) :
    (s.status.cfgValid = true ∧ t = s.foldByte din) ∨
      (s.status.cfgValid = false ∧ t = s.raise .protocolError) := by
  cases hv : s.status.cfgValid
  · have hp : RaisesProtocolError (.data din) s := .inl ⟨⟨din, rfl⟩, hv⟩
    exact .inr ⟨rfl, Host.Outcome.next.inj (h.symm.trans (exec_raisesProtocolError hp))⟩
  · exact .inl ⟨rfl, Host.Outcome.next.inj (h.symm.trans (exec_data_configured hv din))⟩

theorem exec_fin_next {s t : State} (h : exec .fin s = .next t) :
    (s.status.cfgValid = true ∧ t = s.finish) ∨
      (s.status.cfgValid = false ∧ t = s.raise .protocolError) := by
  cases hv : s.status.cfgValid
  · have hp : RaisesProtocolError .fin s := .inr (.inl ⟨rfl, hv⟩)
    exact .inr ⟨rfl, Host.Outcome.next.inj (h.symm.trans (exec_raisesProtocolError hp))⟩
  · exact .inl ⟨rfl, Host.Outcome.next.inj (h.symm.trans (exec_fin_configured hv))⟩

/-! ### Ranges of what the units compute -/

theorem Descriptor.valid_iff (d : Descriptor) :
    d.valid = true ↔ legalDegree d.degree = true ∧ inRange d.degree.toNat d.poly = true ∧
      inRange d.degree.toNat d.init = true ∧ inRange d.degree.toNat d.xorOut = true := by
  simp only [Descriptor.valid, validConfig, Bool.and_eq_true, and_assoc]

theorem inRange_xor {deg : Nat} {v w : Word} (hv : inRange deg v = true) (hw : inRange deg w = true) :
    inRange deg (v ^^^ w) = true := by
  rw [inRange_iff] at *
  intro k hk
  rw [BitVec.getLsbD_xor, hv k hk, hw k hk, Bool.xor_false]

/-- After at least one clock the start value is gone: whatever it was, the result is within the degree. -/
theorem inRange_parallel_succ {deg : Nat} (hdeg : 1 ≤ deg) (n : Nat) (data init poly : Word) :
    inRange deg (parallel (n + 1) data init poly deg) = true :=
  inRange_serial hdeg

theorem inRange_buildH1 {deg : Nat} {poly : Word} (hdeg : 1 ≤ deg) (hpoly : inRange deg poly = true)
    (c : ByteIndex) : inRange deg (buildH1 poly deg)[c] = true := by
  obtain ⟨c, hc⟩ := c
  rw [Fin.getElem_fin, buildH1_getElem]
  cases c with
  | zero => exact hpoly
  | succ n => exact inRange_parallel_succ hdeg n ..

theorem inRange_of_mem_buildH2 {deg : Nat} {poly v : Word} (hdeg : 1 ≤ deg) (hv : v ∈ buildH2 poly deg) :
    inRange deg v = true := by
  obtain ⟨n, -, rfl⟩ := List.mem_map.mp hv
  exact inRange_parallel_succ hdeg 7 ..

theorem inRange_finalize {deg : Nat} {gen xorOut : Word} (refOut : Bool) (hgen : inRange deg gen = true)
    (hxor : inRange deg xorOut = true) : inRange deg (finalize gen deg refOut xorOut) = true := by
  refine inRange_xor ?_ hxor
  cases refOut with
  | false => exact hgen
  | true => exact inRange_fillBits (Nat.le_refl deg) _

/-! ### Invariants of the step -/

/-- What it takes for a property of the registers to be kept by every step: one field per way in which a step can
change the registers. -/
structure StepInvariant (P : State → Prop) : Prop where
  /-- It holds in the control state (0, 0) of R164, which a reset and a rejected `CFG` enter. -/
  ofUnconfigured : ∀ s : State, s.status.cfgValid = false → s.status.done = false → P s
  /-- It reads neither the error flags, nor the response, nor the model's own input queue and unit output. -/
  ofSameRegisters : ∀ (s : State) (errCfg errProto : Bool) (rsp : Option Rsp) (pending : List HostInput)
    (unitOut : Option UnitValue), P s →
    P { s with status := { s.status with errCfg := errCfg, errProto := errProto }
               rsp := rsp, pending := pending, unitOut := unitOut }
  ofConfigure : ∀ (s : State) (d : Descriptor), d.valid = true →
    P (s.configure d.degree d.poly d.init d.refIn d.refOut d.xorOut)
  ofFoldByte : ∀ (s : State) (din : Byte), P s → P (s.foldByte din)
  ofFinish : ∀ s : State, s.status.cfgValid = true → P s → P s.finish

theorem StepInvariant.of_exec {P : State → Prop} (hP : StepInvariant P) {i : Instr} {s t : State} (hs : P s)
    (h : exec i s = .next t) : P t := by
  obtain ⟨-, rfl⟩ | ⟨d, -, hd, rfl⟩ | ⟨d, -, -, rfl⟩ | ⟨din, -, -, rfl⟩ | ⟨-, hv, rfl⟩ | ⟨-, rfl⟩ | ⟨-, v, rfl⟩ :=
    exec_next_cases h
  · exact hP.ofSameRegisters s _ _ _ _ _ hs
  · exact hP.ofConfigure s d hd
  · exact hP.ofUnconfigured _ rfl rfl
  · exact hP.ofFoldByte s din hs
  · exact hP.ofFinish s hv hs
  · exact hP.ofSameRegisters s _ _ _ _ _ hs
  · exact hP.ofSameRegisters s _ _ _ _ _ hs

theorem StepInvariant.of_step {P : State → Prop} (hP : StepInvariant P) {s t : State} (hs : P s)
    (h : step s = .next t) : P t := by
  have hTaken (rest : List HostInput) : P { s with pending := rest } := hP.ofSameRegisters s _ _ _ _ _ hs
  obtain ⟨-, hstep⟩ | ⟨rest, ⟨-, hstep⟩ | ⟨cmd, -, hstep⟩ | ⟨-, hstep⟩⟩ := step_cases s <;> rw [hstep] at h
  · exact Host.Outcome.next.inj h ▸ hs
  · exact Host.Outcome.next.inj h ▸ hTaken rest
  · exact hP.of_exec (hTaken rest) h
  · exact Host.Outcome.next.inj h ▸ hP.ofUnconfigured _ rfl rfl

theorem State.WidthInv.of_unconfigured {s : State} (h : s.status.cfgValid = false) : s.WidthInv :=
  fun hv => absurd hv (Bool.eq_false_iff.mp h)

theorem State.MatrixInv.of_unconfigured {s : State} (h : s.status.cfgValid = false) : s.MatrixInv :=
  fun hv => absurd hv (Bool.eq_false_iff.mp h)

theorem State.DoneInv.of_not_done {s : State} (h : s.status.done = false) : s.DoneInv :=
  fun hd => absurd hd (Bool.eq_false_iff.mp h)

theorem State.WidthInv.configure (s : State) {d : Descriptor} (h : d.valid = true) :
    (s.configure d.degree d.poly d.init d.refIn d.refOut d.xorOut).WidthInv := by
  obtain ⟨hlegal, hpoly, hinit, hxor⟩ := d.valid_iff.mp h
  have hdeg : 1 ≤ d.degree.toNat := Nat.le_trans (by decide) (legalDegree_bounds hlegal).1
  exact fun _ => ⟨hlegal, buildH2_length _ _, hinit, hpoly, hinit, hxor, hinit, inRange_buildH1 hdeg hpoly,
    fun _ => inRange_of_mem_buildH2 hdeg⟩

theorem State.WidthInv.foldByte {s : State} (hs : s.WidthInv) (din : Byte) : (s.foldByte din).WidthInv := by
  intro hv
  obtain ⟨hlegal, hlen, -, hrest⟩ := hs hv
  exact ⟨hlegal, hlen, inRange_fold, hrest⟩

theorem State.WidthInv.finish {s : State} (hs : s.WidthInv) : s.finish.WidthInv := by
  intro hv
  obtain ⟨hlegal, hlen, hgen, hpoly, hinit, hxor, -, hcolumns⟩ := hs hv
  exact ⟨hlegal, hlen, hgen, hpoly, hinit, hxor, inRange_finalize s.refOut hgen hxor, hcolumns⟩

/-- `FIN` is what makes `RESULT` the check value of `GEN` (R156). -/
theorem State.DoneInv.finish {s : State} (h : s.status.cfgValid = true) : s.finish.DoneInv :=
  fun _ => ⟨h, rfl⟩

theorem stepInvariant_widthInv : StepInvariant State.WidthInv where
  ofUnconfigured _ hv _ := .of_unconfigured hv
  ofSameRegisters _ _ _ _ _ _ hs := hs
  ofConfigure s _ hd := .configure s hd
  ofFoldByte _ din hs := hs.foldByte din
  ofFinish _ _ hs := hs.finish

theorem stepInvariant_matrixInv : StepInvariant State.MatrixInv where
  ofUnconfigured _ hv _ := .of_unconfigured hv
  ofSameRegisters _ _ _ _ _ _ hs := hs
  ofConfigure _ _ _ := fun _ => ⟨rfl, rfl⟩
  ofFoldByte _ _ hs := hs
  ofFinish _ _ hs := hs

theorem stepInvariant_doneInv : StepInvariant State.DoneInv where
  ofUnconfigured _ _ hd := .of_not_done hd
  ofSameRegisters _ _ _ _ _ _ hs := hs
  ofConfigure _ _ _ := .of_not_done rfl
  ofFoldByte _ _ _ := .of_not_done rfl
  ofFinish _ hv _ := .finish hv

/-- Settles O51: each register write of a command is within the degree, the matrices because every column but
`H1[0] = POLY` comes out of a clock. -/
theorem everyStepKeepsWidths : Obligations.EveryStepKeepsWidths :=
  fun _ _ => stepInvariant_widthInv.of_step

/-- Settles O52: only an accepted `CFG` writes `POLY`, `DEGREE` or a matrix, and it writes all of them. -/
theorem everyStepKeepsMatrices : Obligations.EveryStepKeepsMatrices :=
  fun _ _ => stepInvariant_matrixInv.of_step

/-- Settles O53: only `FIN` sets `DONE`; every other write to what `Finalize` reads clears it. -/
theorem everyStepKeepsDoneMeaning : Obligations.EveryStepKeepsDoneMeaning :=
  fun _ _ => stepInvariant_doneInv.of_step

/-- Settles O54: a reset state is unconfigured and not done, which is all the invariants ask of it. -/
theorem invariantsHoldAtReset : Obligations.InvariantsHoldAtReset :=
  ⟨.of_unconfigured rfl, .of_unconfigured rfl, .of_not_done rfl⟩

/-! ### The sticky error flags -/

/-- The commands that raise InvalidConfiguration (R171). -/
def RaisesInvalidConfiguration (i : Instr) : Prop := ∃ d : Descriptor, i = cfgCommand d ∧ d.valid = false

theorem exec_raisesInvalidConfiguration {i : Instr} (h : RaisesInvalidConfiguration i) (s : State) :
    exec i s = .next (s.raise .invalidConfiguration) := by
  obtain ⟨d, rfl, hd⟩ := h
  exact exec_cfgCommand_invalid hd s

/-- No instruction raises both errors: one is raised by `CFG` only, the other by every command but `CFG` and `NOP`. -/
theorem RaisesInvalidConfiguration.not_raisesProtocolError {i : Instr} (h : RaisesInvalidConfiguration i)
    (s : State) : ¬ RaisesProtocolError i s := by
  obtain ⟨d, rfl, -⟩ := h
  simp [RaisesProtocolError, cfgCommand]

theorem exec_keeps_error_flags {i : Instr} {s : State} (hc : ¬ RaisesInvalidConfiguration i)
    (hp : ¬ RaisesProtocolError i s) :
    ∃ t, exec i s = .next t ∧ t.status.errCfg = s.status.errCfg ∧ t.status.errProto = s.status.errProto := by
  obtain ⟨-, he⟩ | ⟨_, -, -, he⟩ | ⟨d, hi, hd, -⟩ | ⟨_, -, -, he⟩ | ⟨-, -, he⟩ | ⟨hraise, -⟩ | ⟨-, _, he⟩ :=
    exec_cases i s
  · exact ⟨_, he, rfl, rfl⟩
  · exact ⟨_, he, rfl, rfl⟩
  · exact absurd ⟨d, hi, hd⟩ hc
  · exact ⟨_, he, rfl, rfl⟩
  · exact ⟨_, he, rfl, rfl⟩
  · exact absurd hraise hp
  · exact ⟨_, he, rfl, rfl⟩

/-- Settles O24: an instruction raises one error, or the other, or neither; `raise` sets that error's flag and keeps
the other, and without an error both are kept. -/
theorem errorFlagsAreSticky : Obligations.ErrorFlagsAreSticky := by
  intro i s
  change ∃ t, exec i s = .next t ∧
    (t.status.errCfg = true ↔ s.status.errCfg = true ∨ RaisesInvalidConfiguration i) ∧
    (t.status.errProto = true ↔ s.status.errProto = true ∨ RaisesProtocolError i s)
  by_cases hc : RaisesInvalidConfiguration i
  · exact ⟨_, exec_raisesInvalidConfiguration hc s, by simp [hc], by simp [hc.not_raisesProtocolError s]⟩
  by_cases hp : RaisesProtocolError i s
  · exact ⟨_, exec_raisesProtocolError hp, by simp [hc], by simp [hp]⟩
  · obtain ⟨t, he, hcfg, hproto⟩ := exec_keeps_error_flags hc hp
    exact ⟨t, he, by simp [hcfg, hc], by simp [hproto, hp]⟩

/-! ### Frames -/

/-- Settles O27: of all that an instruction can do, only `configure` and `foldByte` write `GEN`, and only `configure`
and `finish` write `RESULT`. -/
theorem whoWritesGenAndResult : Obligations.WhoWritesGenAndResult := by
  intro i s t h
  obtain ⟨-, rfl⟩ | ⟨d, hi, hd, -⟩ | ⟨_, -, -, rfl⟩ | ⟨din, hi, hv, rfl⟩ | ⟨hi, hv, rfl⟩ | ⟨-, rfl⟩ | ⟨-, v, rfl⟩ :=
    exec_next_cases h
  · exact ⟨.inl rfl, .inl rfl⟩
  · exact ⟨.inr (.inl ⟨d, hi, hd⟩), .inr (.inl ⟨d, hi, hd⟩)⟩
  · exact ⟨.inl rfl, .inl rfl⟩
  · exact ⟨.inr (.inr ⟨⟨din, hi⟩, hv⟩), .inl rfl⟩
  · exact ⟨.inl rfl, .inr (.inr ⟨hi, hv⟩)⟩
  · exact ⟨.inl rfl, .inl rfl⟩
  · exact ⟨.inl rfl, .inl rfl⟩

@[simp] theorem State.sameConfig_respondOk (s : State) : s.SameConfig s.respondOk := by simp [State.SameConfig]
@[simp] theorem State.sameConfig_raise (s : State) (e : ErrorClass) : s.SameConfig (s.raise e) := by
  simp [State.SameConfig]
@[simp] theorem State.sameConfig_foldByte (s : State) (din : Byte) : s.SameConfig (s.foldByte din) := by
  simp [State.SameConfig]
@[simp] theorem State.sameConfig_finish (s : State) : s.SameConfig s.finish := by simp [State.SameConfig]

@[simp] theorem State.sameOwn_respondOk (s : State) : s.SameOwn s.respondOk := by simp [State.SameOwn]
@[simp] theorem State.sameOwn_raise (s : State) (e : ErrorClass) : s.SameOwn (s.raise e) := by
  simp [State.SameOwn]
@[simp] theorem State.sameOwn_configure (s : State) (degree : DegreeBits) (poly init : Word) (refIn refOut : Bool)
    (xorOut : Word) : s.SameOwn (s.configure degree poly init refIn refOut xorOut) := by
  simp [State.SameOwn]
@[simp] theorem State.sameOwn_foldByte (s : State) (din : Byte) : s.SameOwn (s.foldByte din) := by
  simp [State.SameOwn]
@[simp] theorem State.sameOwn_finish (s : State) : s.SameOwn s.finish := by simp [State.SameOwn]

/-- Settles O28: each command is one operation when accepted and `raise` when not, and each of these operations has
its frame lemmas. -/
theorem commandFrames : Obligations.CommandFrames := by
  intro s t d din low
  refine ⟨fun h => ?nop, fun h => ?cfg, fun h => ?data, fun h => ?fin, fun h => ?reserved⟩
  case nop =>
    obtain rfl := exec_nop_next h
    simp
  case cfg =>
    obtain ⟨hd, rfl⟩ | ⟨hd, rfl⟩ := exec_cfgCommand_next h <;> simp [hd]
  case data =>
    obtain ⟨hv, rfl⟩ | ⟨hv, rfl⟩ := exec_data_next h <;> simp [hv]
  case fin =>
    obtain ⟨hv, rfl⟩ | ⟨hv, rfl⟩ := exec_fin_next h <;> simp [hv]
  case reserved =>
    obtain rfl := exec_reserved_next h
    simp

end Sys2Proof.Machine

namespace Sys2Proof.Machine

/-! ### Encoding: fields and segments of a command word -/

/-- Reading back the bits a field was placed at. -/
theorem extractLsb'_place_same {n lo : Nat} (v : BitVec n) (h : lo + n ≤ 128) :
    (place v lo).extractLsb' lo n = v := by
  apply BitVec.eq_of_getLsbD_eq
  intro k hk
  rw [BitVec.getLsbD_extractLsb', place_getLsbD]
  simp [hk, show lo + k < 128 by omega]

/-- A placed field is 0 in every other field. -/
theorem extractLsb'_place_disjoint {n lo m lo' : Nat} (v : BitVec n) (h : lo' + m ≤ lo ∨ lo + n ≤ lo') :
    (place v lo).extractLsb' lo' m = 0#m := by
  apply BitVec.eq_of_getLsbD_eq
  intro k hk
  rcases h with h | h
  · simp [place_getLsbD, show ¬ lo ≤ lo' + k by omega]
  · simp [place_getLsbD, BitVec.getLsbD_of_ge v (lo' + k - lo) (by omega)]

/-- Placing a field of a word back where it was read keeps those bits of the word and clears the others. -/
theorem place_extractLsb' (w : CmdWord) (lo n : Nat) :
    place (w.extractLsb' lo n) lo = w &&& place (BitVec.allOnes n) lo := by
  apply BitVec.eq_of_getLsbD_eq
  intro k hk
  rw [BitVec.getLsbD_and, place_getLsbD, place_getLsbD]
  by_cases hlo : lo ≤ k
  · simp [hk, hlo, Nat.add_sub_cancel' hlo, Bool.and_comm]
  · simp [hlo]

theorem extractLsb'_congr {w w' : CmdWord} {lo n : Nat}
    (h : ∀ k, lo ≤ k → k < lo + n → w.getLsbD k = w'.getLsbD k) : w.extractLsb' lo n = w'.extractLsb' lo n := by
  apply BitVec.eq_of_getLsbD_eq
  intro k hk
  simp [hk, h (lo + k) (by omega) (by omega)]

theorem getLsbD_eq_extractLsb' (w : CmdWord) (k : Nat) : w.getLsbD k = (w.extractLsb' k 1).getLsbD 0 := by simp

theorem ofBool_getLsbD (w : CmdWord) (k : Nat) : BitVec.ofBool (w.getLsbD k) = w.extractLsb' k 1 := by
  apply BitVec.eq_of_getLsbD_eq
  intro j hj
  obtain rfl : j = 0 := by omega
  simp

/-! ### Encoding: what selects the command -/

theorem getLsbD_two_of_opField {w : CmdWord} {op : BitVec 3} (h : opField w = op) :
    w.getLsbD 2 = op.getLsbD 2 := by
  simp [← h, opField]

theorem decode_of_nop {w : CmdWord} (h : opField w = 0#3) : decode w = .nop := by simp [decode, h]

theorem decode_of_cfg {w : CmdWord} (h : opField w = 1#3) :
    decode w = .cfg (degreeField w) (polyField w) (initField w) (refInField w) (refOutField w) (xorOutField w) := by
  simp [decode, h]

theorem decode_of_data {w : CmdWord} (h : opField w = 2#3) : decode w = .data (dinField w) := by simp [decode, h]

theorem decode_of_fin {w : CmdWord} (h : opField w = 3#3) : decode w = .fin := by simp [decode, h]

/-- An opcode with `cmd[2] = 1` is none of those with bit 2 clear. -/
theorem opField_ne {w : CmdWord} (h : w.getLsbD 2 = true) {op : BitVec 3} (hop : op.getLsbD 2 = false) :
    opField w ≠ op :=
  fun heq => Bool.false_ne_true (hop.symm.trans ((getLsbD_two_of_opField heq).symm.trans h))

theorem decode_of_reserved {w : CmdWord} (h : w.getLsbD 2 = true) : decode w = .reserved (opLowField w) := by
  simp [decode, opField_ne h]

/-- The five opcode classes of R73 and R77. -/
theorem opField_cases (w : CmdWord) :
    opField w = 0#3 ∨ opField w = 1#3 ∨ opField w = 2#3 ∨ opField w = 3#3 ∨ w.getLsbD 2 = true := by
  rw [getLsbD_two_of_opField rfl]
  have h : ∀ op : BitVec 3, op = 0#3 ∨ op = 1#3 ∨ op = 2#3 ∨ op = 3#3 ∨ op.getLsbD 2 = true := by decide
  exact h (opField w)

/-! ### Encoding: there and back -/

/-- The canonical word of a `CFG`, as the encoder writes it (R71). -/
def cfgWord (degree : DegreeBits) (poly init : Word) (refIn refOut : Bool) (xorOut : Word) : CmdWord :=
  place xorOut 96 ||| place init 64 ||| place poly 32 ||| place (BitVec.ofBool refOut) 18 |||
    place (BitVec.ofBool refIn) 17 ||| place degree 11 ||| 1#128

theorem encode_cfg (degree : DegreeBits) (poly init : Word) (refIn refOut : Bool) (xorOut : Word) :
    encode (.cfg degree poly init refIn refOut xorOut) = some (cfgWord degree poly init refIn refOut xorOut) := rfl

theorem decode_cfgWord (degree : DegreeBits) (poly init : Word) (refIn refOut : Bool) (xorOut : Word) :
    decode (cfgWord degree poly init refIn refOut xorOut) = .cfg degree poly init refIn refOut xorOut := by
  rw [decode_of_cfg]
  · simp only [cfgWord, degreeField, polyField, initField, refInField, refOutField, xorOutField,
      getLsbD_eq_extractLsb', BitVec.extractLsb'_or]
    simp [extractLsb'_place_same, extractLsb'_place_disjoint]
  · simp [cfgWord, opField, BitVec.extractLsb'_or, extractLsb'_place_disjoint]

theorem decode_dataWord (din : Byte) : decode (place din 3 ||| 2#128) = .data din := by
  rw [decode_of_data]
  · simp [dinField, BitVec.extractLsb'_or, extractLsb'_place_same]
  · simp [opField, BitVec.extractLsb'_or, extractLsb'_place_disjoint]

theorem decode_reservedWord (low : BitVec 2) : decode (4#128 ||| place low 0) = .reserved low := by
  rw [decode_of_reserved]
  · simp [opLowField, BitVec.extractLsb'_or, extractLsb'_place_same]
  · simp

/-- Settles O2: a field is read back from where it was placed, and every other field placed in the word is 0 there;
an internal function is no command. -/
theorem decodeEncodeEveryCommand : Obligations.DecodeEncodeEveryCommand := by
  intro i hi
  cases i with
  | nop => exact ⟨_, rfl, decode_of_nop rfl⟩
  | cfg degree poly init refIn refOut xorOut => exact ⟨_, rfl, decode_cfgWord degree poly init refIn refOut xorOut⟩
  | data din => exact ⟨_, rfl, decode_dataWord din⟩
  | fin => exact ⟨_, rfl, decode_of_fin rfl⟩
  | reserved low => exact ⟨_, rfl, decode_reservedWord low⟩
  | get | set | getBit | setBit | serial | parallel | buildH1 | buildH2 | rev8 | fold | revN | finalize =>
    exact absurd hi Bool.false_ne_true

/-- `OP` is the low three bits of the word (R71). -/
theorem and_seven_eq_place (w : CmdWord) {op : BitVec 3} (h : opField w = op) : w &&& 7#128 = place op 0 :=
  h ▸ (place_extractLsb' w 0 3).symm

theorem cfgWord_fields {w : CmdWord} (h : opField w = 1#3) :
    cfgWord (degreeField w) (polyField w) (initField w) (refInField w) (refOutField w) (xorOutField w) =
      w &&& 0xFFFFFFFF_FFFFFFFF_FFFFFFFF_0007F807#128 := by
  have hop : 1#128 = w &&& 7#128 := (and_seven_eq_place w h).symm
  simp only [cfgWord, degreeField, polyField, initField, refInField, refOutField, xorOutField, ofBool_getLsbD,
    place_extractLsb', hop, ← BitVec.and_or_distrib_left]
  rfl

theorem dataWord_field {w : CmdWord} (h : opField w = 2#3) : place (dinField w) 3 ||| 2#128 = w &&& 0x7FF#128 := by
  have hop : 2#128 = w &&& 7#128 := (and_seven_eq_place w h).symm
  simp only [dinField, place_extractLsb', hop, ← BitVec.and_or_distrib_left]
  rfl

theorem reservedWord_field {w : CmdWord} (h : w.getLsbD 2 = true) : 4#128 ||| place (opLowField w) 0 = w &&& 7#128 := by
  have hbit : 4#128 = w &&& 4#128 := by
    calc 4#128 = place (BitVec.ofBool (w.getLsbD 2)) 2 := by rw [h]; rfl
      _ = w &&& 4#128 := by rw [ofBool_getLsbD, place_extractLsb']; rfl
  rw [opLowField, place_extractLsb', hbit, ← BitVec.and_or_distrib_left]
  rfl

theorem readBits_of_cfg {w : CmdWord} (h : opField w = 1#3) :
    readBits w = 0xFFFFFFFF_FFFFFFFF_FFFFFFFF_0007F807#128 := by simp [readBits, h]

theorem readBits_of_data {w : CmdWord} (h : opField w = 2#3) : readBits w = 0x7FF#128 := by simp [readBits, h]

theorem readBits_of_opcodeOnly {w : CmdWord} (hcfg : opField w ≠ 1#3) (hdata : opField w ≠ 2#3) :
    readBits w = 7#128 := by simp [readBits, hcfg, hdata]

/-- Settles O3: by the opcode classes; a field placed back where it was read keeps exactly its own bits of the word, and
the fields a command reads make up its `readBits`. -/
theorem encodeDecodeClearsIgnoredBits : Obligations.EncodeDecodeClearsIgnoredBits := by
  intro w
  obtain h | h | h | h | h := opField_cases w
  · rw [decode_of_nop h, readBits_of_opcodeOnly (by simp [h]) (by simp [h]), and_seven_eq_place w h]
    rfl
  · rw [decode_of_cfg h, readBits_of_cfg h, encode_cfg, cfgWord_fields h]
  · rw [decode_of_data h, readBits_of_data h, encode, dataWord_field h]
  · rw [decode_of_fin h, readBits_of_opcodeOnly (by simp [h]) (by simp [h]), and_seven_eq_place w h]
    rfl
  · rw [decode_of_reserved h, readBits_of_opcodeOnly (opField_ne h rfl) (opField_ne h rfl), encode,
      reservedWord_field h]

/-! ### Encoding: ignored bits -/

theorem isCommand_of_encode {i : Instr} {v : CmdWord} (h : encode i = some v) : i.isCommand = true := by
  cases i with
  | nop | cfg | data | fin | reserved => rfl
  | get | set | getBit | setBit | serial | parallel | buildH1 | buildH2 | rev8 | fold | revN | finalize =>
    exact absurd h.symm (Option.some_ne_none v)

theorem decode_of_encode {i : Instr} {v : CmdWord} (h : encode i = some v) : decode v = i := by
  obtain ⟨w, hw, hdec⟩ := decodeEncodeEveryCommand i (isCommand_of_encode h)
  rwa [Option.some.inj (h.symm.trans hw)]

/-- The encoder sets no bit that its command ignores (R83). -/
theorem encode_and_readBits {i : Instr} {v : CmdWord} (h : encode i = some v) : v &&& readBits v = v := by
  have hround := encodeDecodeClearsIgnoredBits v
  rw [decode_of_encode h, h] at hround
  exact (Option.some.inj hround).symm

theorem decode_data_congr {w w' : CmdWord} (h : opField w = 2#3) (hop : opField w' = opField w)
    (hbits : ∀ k, 3 ≤ k → k ≤ 10 → w.getLsbD k = w'.getLsbD k) : decode w = decode w' := by
  have hdin : dinField w = dinField w' := extractLsb'_congr fun k hlo hhi => hbits k hlo (by omega)
  rw [decode_of_data h, decode_of_data (hop.trans h), hdin]

theorem decode_cfg_congr {w w' : CmdWord} (h : opField w = 1#3) (hop : opField w' = opField w)
    (hbits : ∀ k, (11 ≤ k ∧ k ≤ 18) ∨ 32 ≤ k → w.getLsbD k = w'.getLsbD k) : decode w = decode w' := by
  have hdegree : degreeField w = degreeField w' := extractLsb'_congr fun k _ _ => hbits k (by omega)
  have hpoly : polyField w = polyField w' := extractLsb'_congr fun k _ _ => hbits k (by omega)
  have hinit : initField w = initField w' := extractLsb'_congr fun k _ _ => hbits k (by omega)
  have hrefIn : refInField w = refInField w' := hbits 17 (by decide)
  have hrefOut : refOutField w = refOutField w' := hbits 18 (by decide)
  have hxorOut : xorOutField w = xorOutField w' := extractLsb'_congr fun k _ _ => hbits k (by omega)
  rw [decode_of_cfg h, decode_of_cfg (hop.trans h), hdegree, hpoly, hinit, hrefIn, hrefOut, hxorOut]

/-- A step sees of the issued word only the command it decodes to. -/
theorem step_issue_congr {w w' : CmdWord} (h : decode w = decode w') (s : State) :
    step (s.issue w) = step (s.issue w') := by
  change exec (decode w) s = exec (decode w') s
  rw [h]

/-- Settles O4: two words that agree on the opcode and on the fields their command reads decode to the same command, and
a step sees no more of a word than that; the assembler's zeros are the two round trips put together. -/
theorem ignoredBitsHaveNoEffect : Obligations.IgnoredBitsHaveNoEffect := by
  intro w w' s hlow
  have hop : opField w' = opField w := (extractLsb'_congr fun k _ hk => hlow k (by omega)).symm
  refine ⟨fun h => step_issue_congr ?_ s, fun h hbits => step_issue_congr (decode_data_congr h hop hbits) s,
    fun h hbits => step_issue_congr (decode_cfg_congr h hop hbits) s, fun _ _ => encode_and_readBits⟩
  obtain h | h := h
  · rw [decode_of_nop h, decode_of_nop (hop.trans h)]
  · rw [decode_of_fin h, decode_of_fin (hop.trans h)]

/-- Settles O5: by the opcode classes, of which only the reserved one has `cmd[2] = 1`. -/
theorem decodingIsTotalOnCommands : Obligations.DecodingIsTotalOnCommands := by
  intro w
  obtain h | h | h | h | h := opField_cases w
  · rw [decode_of_nop h, getLsbD_two_of_opField h]
    simp [Instr.isCommand, Instr.wellFormed]
  · rw [decode_of_cfg h, getLsbD_two_of_opField h]
    simp [Instr.isCommand, Instr.wellFormed]
  · rw [decode_of_data h, getLsbD_two_of_opField h]
    simp [Instr.isCommand, Instr.wellFormed]
  · rw [decode_of_fin h, getLsbD_two_of_opField h]
    simp [Instr.isCommand, Instr.wellFormed]
  · exact decode_of_reserved h ▸ ⟨rfl, rfl, fun _ => h, fun _ => ⟨_, rfl⟩⟩

end Sys2Proof.Machine

namespace Sys2Proof.Machine

/-! ### The serial clock and its iteration -/

theorem zeroExtend_ofBool_getLsbD (d : Bool) (k : Nat) :
    ((BitVec.ofBool d).zeroExtend 32).getLsbD k = (decide (k = 0) && d) := by
  rcases Nat.eq_zero_or_pos k with rfl | hpos
  · simp
  · simp [BitVec.getLsbD_ofBool, Nat.ne_of_gt hpos]

theorem and_mask_of_inRange {deg : Nat} (hd : deg ≤ 32) {v : Word} (hv : inRange deg v = true) : v &&& mask deg = v := by
  rw [inRange_iff] at hv
  refine BitVec.eq_of_getLsbD_eq fun k _ => ?_
  rw [BitVec.getLsbD_and, mask_getLsbD hd]
  by_cases hk : k < deg
  · simp [hk]
  · simp [hv k (Nat.not_lt.mp hk)]

/-- The closed form of a clock (R101): bit 0 of the shifted state is clear, so that the OR puts `din` there. -/
theorem serial_eq_shift_or_xor {deg : Nat} (h1 : 1 ≤ deg) (hd : deg ≤ 32) (prev : Word) (din : Bool) (poly : Word) :
    serial prev din poly deg =
      ((((prev <<< 1) &&& mask deg) ||| (BitVec.ofBool din).zeroExtend 32) ^^^
        (if prev.getLsbD (deg - 1) then poly &&& mask deg else 0#32)) := by
  have hfeedback (k : Nat) : (if prev.getLsbD (deg - 1) then poly &&& mask deg else 0#32).getLsbD k =
      (decide (k < deg) && (poly.getLsbD k && prev.getLsbD (deg - 1))) := by
    cases prev.getLsbD (deg - 1) <;> simp [mask_getLsbD hd, Bool.and_comm]
  refine BitVec.eq_of_getLsbD_eq fun k hk => ?_
  rw [serial_getLsbD h1 hd, BitVec.getLsbD_xor, hfeedback, BitVec.getLsbD_or, BitVec.getLsbD_and,
    BitVec.getLsbD_shiftLeft, mask_getLsbD hd, zeroExtend_ofBool_getLsbD, Bool.and_xor_distrib_left]
  congr 1
  rcases Nat.eq_zero_or_pos k with rfl | hpos
  · simp [show 0 < deg from h1]
  · simp [hk, Nat.ne_of_gt hpos, Bool.and_comm]

/-- Settles O39: bit by bit, in `serial_eq_shift_or_xor`; the mask keeps a polynomial that is within the degree. -/
theorem serialClosedForm : Obligations.SerialClosedForm := by
  intro prev din poly deg hlegal
  obtain ⟨hlow, hd⟩ := legalDegree_bounds hlegal
  exact ⟨serial_eq_shift_or_xor (by omega) hd prev din poly, and_mask_of_inRange hd⟩

/-- A clock is linear over GF(2) in the state and the input bit together: every bit of it is an XOR of state bits,
which the polynomial selects, and of `din`. -/
theorem serial_xor {deg : Nat} (h1 : 1 ≤ deg) (hd : deg ≤ 32) (a b : Word) (c d : Bool) (poly : Word) :
    serial (a ^^^ b) (c ^^ d) poly deg = serial a c poly deg ^^^ serial b d poly deg := by
  refine BitVec.eq_of_getLsbD_eq fun k _ => ?_
  simp only [BitVec.getLsbD_xor, serial_getLsbD h1 hd, ← Bool.and_xor_distrib_left]
  congr 1
  rw [Bool.and_xor_distrib_left]
  split <;> simp only [Bool.xor_assoc, Bool.xor_left_comm]

/-- From the zero state a clock shows its input bit alone. -/
theorem serial_zero_state {deg : Nat} (h1 : 1 ≤ deg) (hd : deg ≤ 32) (d : Bool) (poly : Word) :
    serial 0#32 d poly deg = (BitVec.ofBool d).zeroExtend 32 := by
  refine BitVec.eq_of_getLsbD_eq fun k _ => ?_
  rw [serial_getLsbD h1 hd, zeroExtend_ofBool_getLsbD]
  by_cases h0 : k = 0
  · simp [h0, show 0 < deg from h1]
  · simp [h0]

/-- Settles O40: linearity in the state and the input bit together, at `(a, 0) ^ (b, 0)` and at `(a, 0) ^ (0, d)`. -/
theorem serialIsLinear : Obligations.SerialIsLinear := by
  intro a b d poly deg hlegal
  obtain ⟨hlow, hd⟩ := legalDegree_bounds hlegal
  have h1 : 1 ≤ deg.toNat := by omega
  refine ⟨serial_xor h1 hd a b false false poly, serial_zero_state h1 hd false poly, ?_⟩
  calc serial a d poly deg.toNat
      = serial (a ^^^ 0#32) (false ^^ d) poly deg.toNat := by rw [BitVec.xor_zero, Bool.false_xor]
    _ = serial a false poly deg.toNat ^^^ serial 0#32 d poly deg.toNat := serial_xor h1 hd a 0#32 false d poly
    _ = serial a false poly deg.toNat ^^^ (BitVec.ofBool d).zeroExtend 32 := by rw [serial_zero_state h1 hd]

theorem parallel_add (a b : Nat) (init poly : Word) (deg : Nat) :
    parallel (a + b) 0#32 init poly deg = parallel b 0#32 (parallel a 0#32 init poly deg) poly deg := by
  induction b with
  | zero => rfl
  | succ b ih => rw [← Nat.add_assoc, parallel_succ, ih, ← parallel_succ]

theorem buildH1_getElem_succ (poly : Word) (deg : Nat) {n : Nat} (h : n + 1 < 8) :
    (buildH1 poly deg)[n + 1] = serial (buildH1 poly deg)[n] false poly deg := by
  rw [buildH1_getElem, buildH1_getElem, parallel_succ]

/-- Settles O41: by induction on the later clocks; column `n` of `H1` is `n` clocks from the polynomial. The degree need
not be legal for this: clocks are only counted. -/
theorem parallelComposes : Obligations.ParallelComposes :=
  fun a b n x poly deg _ =>
    ⟨parallel_add a b x poly deg.toNat, parallel_succ n x poly deg.toNat,
      fun _ h => buildH1_getElem_succ poly deg.toNat h⟩

end Sys2Proof.Machine

namespace Sys2Proof.Machine

/-! ### Lone bits, selections and masks -/

theorem unitAt_eq_shiftLeft {n : Nat} (h : n < 32) : unitAt n = 1#32 <<< n := unitAt_of_lt h

theorem one_shiftLeft_getLsbD {n : Nat} (h : n < 32) (k : Nat) : (1#32 <<< n).getLsbD k = decide (k = n) :=
  unit_getLsbD ⟨n, h⟩ k

theorem inRange_zero (deg : Nat) : inRange deg 0#32 = true := (inRange_iff _).mpr fun _ _ => BitVec.getLsbD_zero

/-- Masking between two shifts drops nothing that the second mask would keep. -/
theorem shiftLeft_and_mask_shiftLeft {deg : Nat} (hd : deg ≤ 32) (v : Word) (a b : Nat) :
    (((v <<< a) &&& mask deg) <<< b) &&& mask deg = (v <<< (a + b)) &&& mask deg := by
  refine BitVec.eq_of_getLsbD_eq fun k hk => ?_
  rw [BitVec.shiftLeft_add, BitVec.getLsbD_and, BitVec.getLsbD_and, BitVec.getLsbD_shiftLeft, BitVec.getLsbD_shiftLeft,
    BitVec.getLsbD_and, mask_getLsbD hd, mask_getLsbD hd]
  by_cases hkd : k < deg
  · simp [show k - b < deg by omega]
  · simp [hkd]

theorem shiftLeft_and_mask_of_le {deg n : Nat} (hd : deg ≤ 32) (hn : deg ≤ n) (v : Word) :
    (v <<< n) &&& mask deg = 0#32 := by
  refine BitVec.eq_of_getLsbD_eq fun k _ => ?_
  rw [BitVec.getLsbD_and, BitVec.getLsbD_shiftLeft, mask_getLsbD hd, BitVec.getLsbD_zero]
  by_cases hk : k < deg
  · simp [show k < n by omega]
  · simp [hk]

theorem xorOver_none (n : Nat) (e : Nat → Bool) : xorOver n (fun _ => false) e = false := by
  induction n with
  | zero => rfl
  | succ n ih => exact ih

/-- An XOR whose selection is one index at most. -/
theorem xorOver_single (n m i : Nat) (e : Nat → Bool) :
    xorOver n (fun j => decide (j + m = i)) e = (decide (i < n + m) && (!decide (i < m) && e (i - m))) := by
  induction n with
  | zero => simp [xorOver, ← Bool.and_assoc]
  | succ n ih =>
    rw [xorOver, ih]
    by_cases h : n + m = i
    · subst h
      simp
    · simp [h, show i < n + 1 + m ↔ i < n + m by omega]

/-! ### The matrix columns -/

/-- Settles O42: column 0 is the seed after no clock, so it reads the polynomial back from the matrix. -/
theorem h1DeterminesThePolynomial : Obligations.H1DeterminesThePolynomial := by
  intro poly poly' deg _
  have hcol0 (p : Word) : (buildH1 p deg.toNat)[0] = p := buildH1_getElem p deg.toNat 0 (by omega)
  refine ⟨hcol0 poly, fun heq => ?_⟩
  rw [← hcol0 poly, heq, hcol0 poly']

/-- Settles O44: column 0 of `H1` is the polynomial, and every other column ends with a clock. -/
theorem matrixColumnsAreInRange : Obligations.MatrixColumnsAreInRange := by
  intro poly deg hlegal hpoly
  obtain ⟨hlow, -⟩ := legalDegree_bounds hlegal
  exact ⟨inRange_buildH1 (by omega) hpoly, fun _ => inRange_of_mem_buildH2 (by omega)⟩

/-- A clock on a lone bit below the top moves it up by one. -/
theorem serial_unit_of_lt_top {deg n : Nat} (hd : deg ≤ 32) (hn : n + 1 < deg) (poly : Word) :
    serial (1#32 <<< n) false poly deg = 1#32 <<< (n + 1) := by
  refine BitVec.eq_of_getLsbD_eq fun k _ => ?_
  have htop : (1#32 <<< n).getLsbD (deg - 1) = false := by
    rw [one_shiftLeft_getLsbD (by omega), decide_eq_false (by omega)]
  rw [serial_getLsbD (by omega) hd, htop, Bool.and_false, Bool.xor_false, one_shiftLeft_getLsbD (by omega),
    one_shiftLeft_getLsbD (by omega)]
  split
  · next h0 => simp [h0]
  · rw [← Bool.decide_and]
    exact decide_eq_decide.mpr (by omega)

/-- A clock on the lone top bit drops it and leaves the polynomial. -/
theorem serial_unit_top {deg : Nat} (h1 : 1 ≤ deg) (hd : deg ≤ 32) {poly : Word} (hpoly : inRange deg poly = true) :
    serial (1#32 <<< (deg - 1)) false poly deg = poly := by
  refine BitVec.eq_of_getLsbD_eq fun k _ => ?_
  rw [serial_getLsbD h1 hd, one_shiftLeft_getLsbD (by omega), one_shiftLeft_getLsbD (by omega)]
  by_cases hk : k < deg
  · have hshifted : (if k = 0 then false else decide (k - 1 = deg - 1)) = false := by
      split
      · rfl
      · exact decide_eq_false (by omega)
    simp [hk, hshifted]
  · simp [hk, (inRange_iff poly).mp hpoly k (Nat.not_lt.mp hk)]

/-- While a lone bit stays below the degree, clocks only shift it. -/
theorem parallel_unit_of_lt {deg n : Nat} (hd : deg ≤ 32) (poly : Word) (k : Nat) (hk : n + k < deg) :
    parallel k 0#32 (1#32 <<< n) poly deg = 1#32 <<< (n + k) := by
  induction k with
  | zero => rfl
  | succ k ih => rw [parallel_succ, ih (by omega), serial_unit_of_lt_top (n := n + k) hd hk, Nat.add_assoc]

/-- The clock that takes a lone bit past the top leaves the polynomial. -/
theorem parallel_unit_past_top {deg n : Nat} (hd : deg ≤ 32) (hn : n < deg) {poly : Word}
    (hpoly : inRange deg poly = true) : parallel (deg - n) 0#32 (1#32 <<< n) poly deg = poly := by
  obtain ⟨m, rfl⟩ := Nat.exists_eq_add_of_lt hn
  rw [show n + m + 1 - n = m + 1 by omega, parallel_succ, parallel_unit_of_lt hd poly m (by omega)]
  exact serial_unit_top (by omega) hd hpoly

/-- Where the unit bit stays below the degree, the column of `H2` is that bit eight places up (R114). -/
theorem buildH2_getElem?_of_lt {deg n : Nat} (hd : deg ≤ 32) (hn : n + 8 < deg) (poly : Word) :
    (buildH2 poly deg)[n]? = some (1#32 <<< (n + 8)) := by
  rw [buildH2_getElem? poly (by omega), unitAt_eq_shiftLeft (by omega), parallel_unit_of_lt hd poly 8 hn]

/-- Where the unit bit passes the top, the column of `H2` is the column of `H1` for the clocks left (R114). -/
theorem buildH2_getElem?_of_ge {deg n : Nat} (hd : deg ≤ 32) (hn : n < deg) (hge : deg ≤ n + 8) {poly : Word}
    (hpoly : inRange deg poly = true) :
    (buildH2 poly deg)[n]? = (buildH1 poly deg).toList[n + 8 - deg]? := by
  have hclocks : (deg - n) + (n + 8 - deg) = 8 := by omega
  have hcolumn : parallel 8 0#32 (1#32 <<< n) poly deg = parallel (n + 8 - deg) 0#32 poly poly deg :=
    calc parallel 8 0#32 (1#32 <<< n) poly deg
        = parallel ((deg - n) + (n + 8 - deg)) 0#32 (1#32 <<< n) poly deg := by rw [hclocks]
      _ = parallel (n + 8 - deg) 0#32 poly poly deg := by rw [parallel_add, parallel_unit_past_top hd hn hpoly]
  rw [buildH2_getElem? poly hn, unitAt_eq_shiftLeft (by omega), hcolumn]
  simp [show n + 8 - deg < 8 by omega]

theorem buildH2_eq_buildH1_of_degree_eight {poly : Word} (hpoly : inRange 8 poly = true) :
    buildH2 poly 8 = (buildH1 poly 8).toList := by
  refine List.ext_getElem? fun n => ?_
  by_cases hn : n < 8
  · exact buildH2_getElem?_of_ge (by omega) hn (by omega) hpoly
  · rw [List.getElem?_eq_none (by simpa using hn), List.getElem?_eq_none (by simpa using hn)]

/-- Settles O43: the unit bit either stays below the degree for all eight clocks, or turns into the polynomial on the
way and spends the clocks left along `H1`; at degree 8 the second case is every column. -/
theorem h2IsShiftsAndH1 : Obligations.H2IsShiftsAndH1 := by
  intro poly deg hlegal hpoly
  obtain ⟨-, hd⟩ := legalDegree_bounds hlegal
  refine ⟨fun n hn => ⟨fun hlt => ?_, fun hge => ?_⟩, ?_⟩
  · exact buildH2_getElem?_of_lt hd (by omega) poly
  · exact buildH2_getElem?_of_ge hd hn (by omega) hpoly
  · rintro rfl
    exact buildH2_eq_buildH1_of_degree_eight hpoly

/-! ### The zero polynomial -/

/-- The zero state stays zero under zero-input clocks. -/
theorem parallel_zero_state {deg : Nat} (h1 : 1 ≤ deg) (hd : deg ≤ 32) (n : Nat) (poly : Word) :
    parallel n 0#32 0#32 poly deg = 0#32 := by
  induction n with
  | zero => rfl
  | succ n ih => rw [parallel_succ, ih, serial_zero_state h1 hd]; rfl

theorem buildH1_zero_getElem {deg : Nat} (h1 : 1 ≤ deg) (hd : deg ≤ 32) {c : Nat} (hc : c < 8) :
    (buildH1 0#32 deg)[c] = 0#32 := by
  rw [buildH1_getElem, parallel_zero_state h1 hd]

theorem buildH2_zero_getElem? {deg n : Nat} (hd : deg ≤ 32) (hn : n < deg) :
    (buildH2 0#32 deg)[n]? = some (if n + 8 ≤ deg - 1 then 1#32 <<< (n + 8) else 0#32) := by
  split
  · exact buildH2_getElem?_of_lt hd (by omega) 0#32
  · have hc : n + 8 - deg < 8 := by omega
    rw [buildH2_getElem?_of_ge hd hn (by omega) (inRange_zero deg), Vector.getElem?_toList,
      Vector.getElem?_eq_getElem hc, buildH1_zero_getElem (by omega) hd hc]

/-- Row `i` of the zero polynomial's `H2` selects state bit `i - 8` alone. -/
theorem h2At_buildH2_zero_getLsbD {deg j i : Nat} (hd : deg ≤ 32) (hj : j < deg) (hi : i < deg) :
    (h2At (buildH2 0#32 deg) j).getLsbD i = decide (j + 8 = i) := by
  rw [h2At, buildH2_zero_getElem? hd hj, Option.getD_some]
  split
  · rw [one_shiftLeft_getLsbD (by omega)]
    exact decide_eq_decide.mpr eq_comm
  · rw [BitVec.getLsbD_zero, decide_eq_false (by omega)]

/-- With the zero polynomial a fold shifts the state up by 8 within the degree and ignores the byte (R118). -/
theorem fold_zero_poly {deg : Nat} (h1 : 1 ≤ deg) (hd : deg ≤ 32) (gen : Word) (byte : Byte) (refIn : Bool) :
    fold gen byte (buildH1 0#32 deg) (buildH2 0#32 deg) deg refIn = (gen <<< 8) &&& mask deg := by
  refine BitVec.eq_of_getLsbD_eq fun i hi32 => ?_
  rw [fold_getLsbD hd, BitVec.getLsbD_and, BitVec.getLsbD_shiftLeft, mask_getLsbD hd]
  by_cases hi : i < deg
  · have hdata : xorOver 8 (fun j => (((buildH1 0#32 deg).toList[j]?).getD 0#32).getLsbD i)
        (fun j => (inputByte refIn byte).getLsbD j) = false := by
      rw [← xorOver_none 8 fun j => (inputByte refIn byte).getLsbD j]
      refine xorOver_congr fun j hj => ⟨?_, fun _ => rfl⟩
      rw [Vector.getElem?_toList, Vector.getElem?_eq_getElem hj, buildH1_zero_getElem h1 hd hj, Option.getD_some,
        BitVec.getLsbD_zero]
    have hstate : xorOver deg (fun j => (h2At (buildH2 0#32 deg) j).getLsbD i) (fun j => gen.getLsbD j) =
        xorOver deg (fun j => decide (j + 8 = i)) (fun j => gen.getLsbD j) :=
      xorOver_congr fun j hj => ⟨h2At_buildH2_zero_getLsbD hd hj hi, fun _ => rfl⟩
    rw [hdata, hstate, xorOver_single, Bool.false_xor]
    simp [hi, hi32, show i < deg + 8 by omega]
  · simp [hi]

/-- Settles O45: the columns from `parallel_zero_state` and the two cases of R114, the fold from `fold_zero_poly`. -/
theorem zeroPolynomialShifts : Obligations.ZeroPolynomialShifts := by
  intro gen byte deg refIn hlegal
  obtain ⟨hlow, hd⟩ := legalDegree_bounds hlegal
  have h1 : 1 ≤ deg.toNat := by omega
  exact ⟨fun c => buildH1_zero_getElem h1 hd c.isLt, fun _ hn => buildH2_zero_getElem? hd hn,
    fold_zero_poly h1 hd gen byte refIn⟩

/-- With the zero polynomial a message of `n` bytes shifts the state up by `8 n` within the degree. -/
theorem foldMessage_zero_poly {d : Descriptor} (hpoly : d.poly = 0#32) (h1 : 1 ≤ d.degree.toNat)
    (hd : d.degree.toNat ≤ 32) (message : List Byte) {g : Word} (hg : inRange d.degree.toNat g = true) :
    foldMessage d g message = (g <<< (8 * message.length)) &&& mask d.degree.toNat := by
  induction message generalizing g with
  | nil => simpa [foldMessage] using (and_mask_of_inRange hd hg).symm
  | cons b rest ih =>
    rw [foldMessage, ih inRange_fold, hpoly, fold_zero_poly h1 hd, shiftLeft_and_mask_shiftLeft hd, List.length_cons,
      Nat.mul_succ, Nat.add_comm]

/-- Settles O46: a message of at least `ceil(deg / 8)` bytes shifts every bit of `init` past the degree. -/
theorem zeroPolynomialClearsState : Obligations.ZeroPolynomialClearsState := by
  intro d message hvalid hpoly hlength
  obtain ⟨hlegal, -, hinit, -⟩ := d.valid_iff.mp hvalid
  obtain ⟨hlow, hd⟩ := legalDegree_bounds hlegal
  rw [foldMessage_zero_poly hpoly (by omega) hd message hinit]
  exact shiftLeft_and_mask_of_le hd (by omega) d.init

end Sys2Proof.Machine

namespace Sys2Proof.Machine

/-! ### Selections, one index at a time -/

theorem xorOver_succ (n : Nat) (sel e : Nat → Bool) : xorOver (n + 1) sel e = (xorOver n sel e ^^ (sel n && e n)) := by
  rw [xorOver]
  cases sel n <;> simp

/-- Selecting and being selected are the same in an XOR over GF(2). -/
theorem xorOver_comm (n : Nat) (sel e : Nat → Bool) : xorOver n sel e = xorOver n e sel := by
  induction n with
  | zero => rfl
  | succ n ih => rw [xorOver_succ, xorOver_succ, ih, Bool.and_comm]

theorem xorOver_xor (n : Nat) (sel e e' : Nat → Bool) :
    xorOver n sel (fun j => e j ^^ e' j) = (xorOver n sel e ^^ xorOver n sel e') := by
  induction n with
  | zero => rfl
  | succ n ih =>
    simp only [xorOver_succ, ih, Bool.and_xor_distrib_left, Bool.xor_assoc, Bool.xor_left_comm]

theorem xorColumns_succ (n : Nat) (sel : Nat → Bool) (col : Nat → Word) :
    xorColumns (n + 1) sel col = xorColumns n sel col ^^^ (if sel n then col n else 0#32) := by
  rw [xorColumns, List.range_succ, List.foldl_concat]
  split
  · rfl
  · exact (BitVec.xor_zero).symm

/-- Row `i` of an XOR of columns is the XOR of the selected columns' bits. -/
theorem xorColumns_getLsbD (n : Nat) (sel : Nat → Bool) (col : Nat → Word) (i : Nat) :
    (xorColumns n sel col).getLsbD i = xorOver n sel (fun j => (col j).getLsbD i) := by
  induction n with
  | zero => exact BitVec.getLsbD_zero
  | succ n ih =>
    rw [xorColumns_succ, xorOver_succ, BitVec.getLsbD_xor, ih]
    cases sel n <;> simp

theorem xorColumns_congr {n : Nat} {sel sel' : Nat → Bool} {col col' : Nat → Word}
    (hsel : ∀ j < n, sel j = sel' j) (hcol : ∀ j < n, col j = col' j) :
    xorColumns n sel col = xorColumns n sel' col' := by
  refine BitVec.eq_of_getLsbD_eq fun i _ => ?_
  rw [xorColumns_getLsbD, xorColumns_getLsbD]
  exact xorOver_congr fun j hj => ⟨hsel j hj, fun _ => by rw [hcol j hj]⟩

theorem inRange_xorColumns {deg n : Nat} {sel : Nat → Bool} {col : Nat → Word}
    (hcol : ∀ j < n, inRange deg (col j) = true) : inRange deg (xorColumns n sel col) = true := by
  induction n with
  | zero => exact inRange_zero deg
  | succ n ih =>
    rw [xorColumns_succ]
    refine inRange_xor (ih fun j hj => hcol j (by omega)) ?_
    split
    · exact hcol n (by omega)
    · exact inRange_zero deg

/-! ### The fold is linear -/

theorem rev8_xor (b b' : Byte) : rev8 (b ^^^ b') = rev8 b ^^^ rev8 b' := by
  refine BitVec.eq_of_getLsbD_eq fun d hd => ?_
  have hd7 : d ≤ 7 := by omega
  rw [BitVec.getLsbD_xor, rev8_getLsbD _ d hd7, rev8_getLsbD _ d hd7, rev8_getLsbD _ d hd7, BitVec.getLsbD_xor]

theorem inputByte_xor (refIn : Bool) (b b' : Byte) :
    inputByte refIn (b ^^^ b') = inputByte refIn b ^^^ inputByte refIn b' := by
  cases refIn with
  | false => rfl
  | true => exact rev8_xor b b'

/-- The fold is linear in state and byte together: in every bit of it they are what is XORed over the rows. -/
theorem fold_xor {deg : Nat} (hd : deg ≤ 32) (g g' : Word) (b b' : Byte) (h1 : Vector Word 8) (h2 : List Word)
    (refIn : Bool) :
    fold (g ^^^ g') (b ^^^ b') h1 h2 deg refIn = fold g b h1 h2 deg refIn ^^^ fold g' b' h1 h2 deg refIn := by
  refine BitVec.eq_of_getLsbD_eq fun i _ => ?_
  simp only [BitVec.getLsbD_xor, fold_getLsbD hd, inputByte_xor, xorOver_xor, ← Bool.and_xor_distrib_left,
    Bool.xor_assoc, Bool.xor_left_comm]

/-- By linearity `Fold(0, 0)` is its own double, which is 0 over GF(2). -/
theorem fold_zero {deg : Nat} (hd : deg ≤ 32) (h1 : Vector Word 8) (h2 : List Word) (refIn : Bool) :
    fold 0#32 0#8 h1 h2 deg refIn = 0#32 := by
  have hdouble := fold_xor hd 0#32 0#32 0#8 0#8 h1 h2 refIn
  rwa [BitVec.xor_self, BitVec.xor_self, BitVec.xor_self] at hdouble

/-- Settles O49: linearity bit by bit, in `fold_xor`; neither the degree's legality nor the number of columns of `H2`
matters beyond the degree being at most 32. -/
theorem foldIsLinear : Obligations.FoldIsLinear := by
  intro g g' b b' h1 h2 deg refIn hlegal _
  obtain ⟨-, hd⟩ := legalDegree_bounds hlegal
  exact ⟨fold_xor hd g g' b b' h1 h2 refIn, fold_zero hd h1 h2 refIn, rev8_xor b b'⟩

/-! ### The column form of the fold -/

/-- The column form of the fold (R125), for matrices whose columns are within the degree. -/
theorem fold_eq_xorColumns {deg : Nat} (hd : deg ≤ 32) {h1 : Vector Word 8} {h2 : List Word}
    (hlength : h2.length = deg) (hh1 : ∀ c : ByteIndex, inRange deg h1[c] = true)
    (hh2 : ∀ v ∈ h2, inRange deg v = true) (gen : Word) (byte : Byte) (refIn : Bool) :
    fold gen byte h1 h2 deg refIn =
      xorColumns 8 (fun j => (inputByte refIn byte).getLsbD j) (fun j => (h1.toList[j]?).getD 0#32) ^^^
      xorColumns deg (fun j => gen.getLsbD j) (fun j => (h2[j]?).getD 0#32) := by
  have hcol1 (j : Nat) (hj : j < 8) : inRange deg ((h1.toList[j]?).getD 0#32) = true := by
    simpa [hj] using hh1 ⟨j, hj⟩
  have hcol2 (j : Nat) (hj : j < deg) : inRange deg ((h2[j]?).getD 0#32) = true := by
    have hj : j < h2.length := by omega
    simpa [hj] using hh2 h2[j] (List.getElem_mem hj)
  refine BitVec.eq_of_getLsbD_eq fun i _ => ?_
  by_cases hi : i < deg
  · have hcol (j : Nat) (hj : j < deg) : h2At h2 j = (h2[j]?).getD 0#32 := by
      simp [h2At, show j < h2.length by omega]
    rw [fold_getLsbD hd, decide_eq_true hi, Bool.true_and, BitVec.getLsbD_xor, xorColumns_getLsbD, xorColumns_getLsbD,
      xorOver_comm 8, xorOver_comm deg]
    congr 1
    exact xorOver_congr fun j hj => ⟨rfl, fun _ => by rw [hcol j hj]⟩
  · have hi : deg ≤ i := by omega
    rw [(inRange_iff _).mp inRange_fold i hi,
      (inRange_iff _).mp (inRange_xor (inRange_xorColumns hcol1) (inRange_xorColumns hcol2)) i hi]

/-- The column form of the fold for the matrices of one polynomial. -/
theorem fold_build_eq_xorColumns {deg : Nat} (h1 : 1 ≤ deg) (hd : deg ≤ 32) {poly : Word}
    (hpoly : inRange deg poly = true) (gen : Word) (byte : Byte) (refIn : Bool) :
    fold gen byte (buildH1 poly deg) (buildH2 poly deg) deg refIn =
      xorColumns 8 (fun j => (inputByte refIn byte).getLsbD j) (fun j => ((buildH1 poly deg).toList[j]?).getD 0#32) ^^^
      xorColumns deg (fun j => gen.getLsbD j) (fun j => ((buildH2 poly deg)[j]?).getD 0#32) :=
  fold_eq_xorColumns hd (buildH2_length poly deg) (inRange_buildH1 h1 hpoly) (fun _ => inRange_of_mem_buildH2 h1)
    gen byte refIn

/-- Settles O47: row by row below the degree, in `fold_eq_xorColumns`; above it every column is 0 (R115). -/
theorem foldIsXorOfColumns : Obligations.FoldIsXorOfColumns := by
  intro gen byte poly deg refIn hlegal hpoly
  obtain ⟨hlow, hd⟩ := legalDegree_bounds hlegal
  exact fold_build_eq_xorColumns (by omega) hd hpoly gen byte refIn

/-- At degree 8 the columns of `H2` are those of `H1`, so a state alone folds like the same byte alone. -/
theorem fold_state_eq_fold_byte {poly : Word} (hpoly : inRange 8 poly = true) (g : Byte) :
    fold (g.zeroExtend 32) 0#8 (buildH1 poly 8) (buildH2 poly 8) 8 false =
      fold 0#32 g (buildH1 poly 8) (buildH2 poly 8) 8 false := by
  rw [fold_build_eq_xorColumns (by omega) (by omega) hpoly, fold_build_eq_xorColumns (by omega) (by omega) hpoly,
    buildH2_eq_buildH1_of_degree_eight hpoly, BitVec.xor_comm]
  simp only [inputByte, Bool.false_eq_true, if_false, BitVec.getLsbD_zero]
  refine congrArg (· ^^^ _) (xorColumns_congr (fun j hj => ?_) fun _ _ => rfl)
  rw [BitVec.zeroExtend_eq_setWidth, BitVec.getLsbD_setWidth, decide_eq_true (by omega), Bool.true_and]

/-- Settles O50: by linearity both sides are the fold of `g` alone XOR the fold of `b` alone. -/
theorem degreeEightFoldsStateLikeByte : Obligations.DegreeEightFoldsStateLikeByte := by
  intro g b poly hpoly
  calc fold (g.zeroExtend 32) b (buildH1 poly 8) (buildH2 poly 8) 8 false
      = fold (g.zeroExtend 32 ^^^ 0#32) (0#8 ^^^ b) (buildH1 poly 8) (buildH2 poly 8) 8 false := by
        rw [BitVec.xor_zero, BitVec.zero_xor]
    _ = fold 0#32 g (buildH1 poly 8) (buildH2 poly 8) 8 false ^^^
          fold 0#32 b (buildH1 poly 8) (buildH2 poly 8) 8 false := by
        rw [fold_xor (by omega), fold_state_eq_fold_byte hpoly]
    _ = fold 0#32 (g ^^^ b) (buildH1 poly 8) (buildH2 poly 8) 8 false := by
        rw [← fold_xor (by omega), BitVec.xor_self]

/-! ### The fold is eight message clocks -/

/-- A clock does not read the state at or above the degree. -/
theorem serial_and_mask {deg : Nat} (h1 : 1 ≤ deg) (hd : deg ≤ 32) (s : Word) (din : Bool) (poly : Word) :
    serial (s &&& mask deg) din poly deg = serial s din poly deg := by
  refine BitVec.eq_of_getLsbD_eq fun i _ => ?_
  rw [serial_getLsbD h1 hd, serial_getLsbD h1 hd]
  by_cases hi : i < deg
  · simp [mask_getLsbD hd, show i - 1 < deg by omega, show deg - 1 < deg by omega]
  · simp [hi]

/-- The first of `n + 1` zero-input clocks split off. -/
theorem parallel_succ' (n : Nat) (init poly : Word) (deg : Nat) :
    parallel (n + 1) 0#32 init poly deg = parallel n 0#32 (serial init false poly deg) poly deg := by
  rw [Nat.add_comm, parallel_add, parallel_succ, parallel_zero]

theorem parallel_xor {deg : Nat} (h1 : 1 ≤ deg) (hd : deg ≤ 32) (n : Nat) (a b poly : Word) :
    parallel n 0#32 (a ^^^ b) poly deg = parallel n 0#32 a poly deg ^^^ parallel n 0#32 b poly deg := by
  induction n with
  | zero => rfl
  | succ n ih =>
    simp only [parallel_succ, ih]
    exact serial_xor h1 hd _ _ false false poly

theorem parallel_ite {deg : Nat} (h1 : 1 ≤ deg) (hd : deg ≤ 32) (n : Nat) (d : Bool) (v poly : Word) :
    parallel n 0#32 (if d then v else 0#32) poly deg = if d then parallel n 0#32 v poly deg else 0#32 := by
  cases d with
  | false => exact parallel_zero_state h1 hd n poly
  | true => rfl

/-- Clocks distribute over an XOR of columns. -/
theorem parallel_xorColumns {deg : Nat} (h1 : 1 ≤ deg) (hd : deg ≤ 32) (k n : Nat) (sel : Nat → Bool)
    (col : Nat → Word) (poly : Word) :
    parallel k 0#32 (xorColumns n sel col) poly deg = xorColumns n sel fun j => parallel k 0#32 (col j) poly deg := by
  induction n with
  | zero => exact parallel_zero_state h1 hd k poly
  | succ n ih => rw [xorColumns_succ, xorColumns_succ, parallel_xor h1 hd, ih, parallel_ite h1 hd]

/-- A state within the degree is the XOR of the unit vectors that its bits select. -/
theorem and_mask_eq_xorColumns {deg : Nat} (hd : deg ≤ 32) (v : Word) :
    v &&& mask deg = xorColumns deg (fun j => v.getLsbD j) unitAt := by
  refine BitVec.eq_of_getLsbD_eq fun i _ => ?_
  have hunit : xorOver deg (fun j => (unitAt j).getLsbD i) (fun j => v.getLsbD j) =
      xorOver deg (fun j => decide (j + 0 = i)) (fun j => v.getLsbD j) := by
    refine xorOver_congr fun j hj => ⟨?_, fun _ => rfl⟩
    rw [unitAt_of_lt (by omega), unit_getLsbD]
    exact decide_eq_decide.mpr eq_comm
  rw [xorColumns_getLsbD, xorOver_comm, hunit, xorOver_single, BitVec.getLsbD_and, mask_getLsbD hd]
  simp [Bool.and_comm]

/-- `H2` is eight zero-input clocks: on any state, the XOR of its columns that the state selects (R119). -/
theorem parallel_eight_eq_xorColumns {deg : Nat} (h1 : 1 ≤ deg) (hd : deg ≤ 32) (gen poly : Word) :
    parallel 8 0#32 gen poly deg =
      xorColumns deg (fun j => gen.getLsbD j) (fun j => ((buildH2 poly deg)[j]?).getD 0#32) :=
  calc parallel 8 0#32 gen poly deg
      = parallel 8 0#32 (gen &&& mask deg) poly deg := by
        rw [parallel_succ' 7, parallel_succ' 7, serial_and_mask h1 hd]
    _ = xorColumns deg (fun j => gen.getLsbD j) (fun j => parallel 8 0#32 (unitAt j) poly deg) := by
        rw [and_mask_eq_xorColumns hd, parallel_xorColumns h1 hd]
    _ = xorColumns deg (fun j => gen.getLsbD j) (fun j => ((buildH2 poly deg)[j]?).getD 0#32) :=
        xorColumns_congr (fun _ _ => rfl) fun j hj => by rw [buildH2_getElem? poly hj, Option.getD_some]

/-- The unrolling in R127: over `n` message clocks that take `bit (n-1)` first and `bit 0` last, the state goes through
`n` zero-input clocks, and `bit j` adds the polynomial, which then goes through the `j` clocks left. -/
theorem foldl_messageClock {deg : Nat} (h1 : 1 ≤ deg) (hd : deg ≤ 32) (poly : Word) (bit : Nat → Bool) (n : Nat)
    (s : Word) :
    ((List.range n).reverse.map bit).foldl (messageClock poly deg) s =
      xorColumns n bit (fun j => parallel j 0#32 poly poly deg) ^^^ parallel n 0#32 s poly deg := by
  induction n generalizing s with
  | zero => exact BitVec.zero_xor.symm
  | succ n ih =>
    rw [List.range_succ, List.reverse_concat, List.map_cons, List.foldl_cons, ih, messageClock, parallel_xor h1 hd,
      parallel_ite h1 hd, ← parallel_succ', xorColumns_succ, BitVec.xor_assoc, BitVec.xor_comm (parallel _ _ _ _ _)]

theorem serialBits_eq (rev : Byte) : serialBits rev = (List.range 8).reverse.map fun k => rev.getLsbD k := rfl

/-- The message bit on top of the state comes out of the clock as the polynomial. -/
theorem topBitClock_eq_messageClock {deg : Nat} (h1 : 1 ≤ deg) (hd : deg ≤ 32) {poly : Word}
    (hpoly : inRange deg poly = true) : topBitClock poly deg = messageClock poly deg := by
  funext s d
  rw [topBitClock, messageClock]
  refine (serial_xor h1 hd s _ false false poly).trans (congrArg (serial s false poly deg ^^^ ·) ?_)
  cases d with
  | false => exact serial_zero_state h1 hd false poly
  | true => exact serial_unit_top h1 hd hpoly

/-- The fold of a byte is its eight message clocks (R127): both are the same XOR of columns. -/
theorem fold_eq_foldl_messageClock {deg : Nat} (h1 : 1 ≤ deg) (hd : deg ≤ 32) {poly : Word}
    (hpoly : inRange deg poly = true) (gen : Word) (byte : Byte) (refIn : Bool) :
    fold gen byte (buildH1 poly deg) (buildH2 poly deg) deg refIn =
      (serialBits (inputByte refIn byte)).foldl (messageClock poly deg) gen := by
  rw [fold_build_eq_xorColumns h1 hd hpoly, serialBits_eq, foldl_messageClock h1 hd, parallel_eight_eq_xorColumns h1 hd]
  exact congrArg (· ^^^ _) (xorColumns_congr (fun _ _ => rfl) fun j hj => by simp [hj])

/-- Settles O48: unrolling the clocks gives the column form of the fold; a message bit put on top of the state comes out
of the clock as the polynomial. -/
theorem foldIsEightMessageClocks : Obligations.FoldIsEightMessageClocks := by
  intro gen byte poly deg refIn hlegal hpoly
  obtain ⟨hlow, hd⟩ := legalDegree_bounds hlegal
  have h1 : 1 ≤ deg.toNat := by omega
  rw [topBitClock_eq_messageClock h1 hd hpoly]
  have hclocks := fold_eq_foldl_messageClock h1 hd hpoly gen byte refIn
  exact ⟨hclocks, hclocks⟩

end Sys2Proof.Machine

namespace Sys2Proof.Machine

/-! ### Commands one after another -/

@[simp] theorem execAll_nil (s : State) : execAll [] s = .next s := rfl

theorem execAll_cons_of_next {i : Instr} {s t : State} (h : exec i s = .next t) (rest : List Instr) :
    execAll (i :: rest) s = execAll rest t := by
  rw [execAll, h]

/-- An accepted `CFG` leaves the rest of a transaction to a configured engine. -/
theorem execAll_computeCommands {d : Descriptor} (h : d.valid = true) (message : List Byte) (s : State) :
    execAll (computeCommands d message) s =
      execAll (msgCommands message ++ [.fin]) (s.configure d.degree d.poly d.init d.refIn d.refOut d.xorOut) :=
  execAll_cons_of_next (exec_cfgCommand_valid h s) _

theorem execAll_fin {s : State} (h : s.status.cfgValid = true) : execAll [.fin] s = .next s.finish := by
  rw [execAll_cons_of_next (exec_fin_configured h), execAll_nil]

/-! ### The empty message -/

/-- Settles O58: no `DATA` stands between `CFG` and `FIN`, so `FIN` finalizes the `init` that `CFG` put in `GEN`. -/
theorem emptyMessageIdentity : Obligations.EmptyMessageIdentity := by
  intro d s hd
  have hrun : execAll (computeCommands d []) s =
      .next (s.configure d.degree d.poly d.init d.refIn d.refOut d.xorOut).finish :=
    (execAll_computeCommands hd [] s).trans (execAll_fin rfl)
  refine ⟨_, hrun, ?_⟩
  rw [State.finish_result, State.configure_gen, State.deg, State.configure_degree, State.configure_refOut,
    State.configure_xorOut, finalize, outputSelect]

end Sys2Proof.Machine

namespace Sys2Proof.Machine

/-! ### The step is total -/

theorem exec_answers_next (i : Instr) (s : State) : ∃ t, exec i s = .next t := by
  obtain ⟨-, he⟩ | ⟨_, -, -, he⟩ | ⟨_, -, -, he⟩ | ⟨_, -, -, he⟩ | ⟨-, -, he⟩ | ⟨-, he⟩ | ⟨-, _, he⟩ :=
    exec_cases i s <;> exact ⟨_, he⟩

/-- Settles O11: a step holds the state, takes an idle input, executes a command, or resets. -/
theorem stepAlwaysAnswersNext : Obligations.StepAlwaysAnswersNext := by
  intro s
  obtain ⟨-, h⟩ | ⟨rest, ⟨-, h⟩ | ⟨cmd, -, h⟩ | ⟨-, h⟩⟩ := step_cases s
  · exact ⟨_, h⟩
  · exact ⟨_, h⟩
  · exact h ▸ exec_answers_next (decode cmd) _
  · exact ⟨_, h⟩

/-! ### The commands, one at a time -/

theorem step_issue (cmd : CmdWord) (s : State) : step (s.issue cmd) = exec (decode cmd) s := rfl

/-- Settles O12: the word decodes to `NOP` because its three opcode bits are those of the zero word. -/
theorem nopChangesNothing : Obligations.NopChangesNothing := by
  refine ⟨fun _ => rfl, fun cmd s hlow => ?_⟩
  have hop : opField cmd = 0#3 := extractLsb'_congr (w' := 0#128) fun k _ hk => by
    rw [hlow k (by omega), BitVec.getLsbD_zero]
  rw [step_issue, decode_of_nop hop]
  rfl

/-- Settles O18: such a word decodes to a reserved opcode, which raises ProtocolError in every state. -/
theorem reservedOpcodeRefused : Obligations.ReservedOpcodeRefused := by
  refine ⟨fun _ _ => rfl, fun cmd s hbit => ?_⟩
  rw [step_issue, decode_of_reserved hbit]
  rfl

/-- The response of a command that is accepted exactly while the engine is configured, as `DATA` and `FIN` are. -/
theorem exec_rspPort_of_needs_configuration {i : Instr} {s t : State} (hrsp : t.rsp = some .ok)
    (hok : s.status.cfgValid = true → exec i s = .next t)
    (hno : s.status.cfgValid = false → RaisesProtocolError i s) :
    ∃ u, exec i s = .next u ∧ u.rspPort = some (if s.status.cfgValid then 0#2 else 2#2) := by
  cases hv : s.status.cfgValid with
  | false => exact ⟨_, exec_raisesProtocolError (hno hv), rfl⟩
  | true => exact ⟨t, hok hv, by rw [State.rspPort, hrsp]; rfl⟩

/-- Settles O21: each command is one operation when accepted and `raise` when not, and each operation answers its own
response. -/
theorem responseOfEachCommand : Obligations.ResponseOfEachCommand := by
  intro s d din low
  refine ⟨⟨_, rfl, rfl⟩, ?cfg, ?data, ?fin, ⟨_, rfl, rfl⟩⟩
  case cfg =>
    cases hd : d.valid with
    | false => exact ⟨_, exec_cfgCommand_invalid hd s, rfl⟩
    | true => exact ⟨_, exec_cfgCommand_valid hd s, rfl⟩
  case data =>
    exact exec_rspPort_of_needs_configuration (s.foldByte_rsp din) (fun hv => exec_data_configured hv din)
      fun hv => .inl ⟨⟨din, rfl⟩, hv⟩
  case fin =>
    exact exec_rspPort_of_needs_configuration s.finish_rsp exec_fin_configured fun hv => .inr (.inl ⟨rfl, hv⟩)

/-- `Finalize` reads `GEN`, which `FIN` does not write (R157). -/
theorem State.finish_finish (s : State) : s.finish.finish = s.finish := rfl

theorem State.finish_with_result (s : State) (r : Word) : State.finish { s with result := r } = s.finish := rfl

/-- Settles O22: an accepted `FIN` is `finish`, which does not read `RESULT` and leaves all that it reads. -/
theorem finIsIdempotent : Obligations.FinIsIdempotent := by
  intro s r hv
  refine ⟨⟨s.finish, exec_fin_configured hv, s.finish_result, ?_⟩, ?_⟩
  · rw [exec_fin_configured (s := s.finish) hv, s.finish_finish]
  · rw [exec_fin_configured hv, exec_fin_configured (s := { s with result := r }) hv, s.finish_with_result]

@[simp] theorem State.sameConfig_deliver (s : State) (v : UnitValue) : s.SameConfig (s.deliver v) := by
  simp [State.SameConfig]

/-- Settles O26: of all that an instruction can do, only `configure` is not the same configuration afterwards. -/
theorem onlyCfgChangesConfiguration : Obligations.OnlyCfgChangesConfiguration := by
  intro i s
  obtain ⟨-, he⟩ | ⟨d, hi, hd, he⟩ | ⟨_, -, -, he⟩ | ⟨_, -, -, he⟩ | ⟨-, -, he⟩ | ⟨-, he⟩ | ⟨-, _, he⟩ := exec_cases i s
  · exact ⟨_, he, .inr s.sameConfig_respondOk⟩
  · exact ⟨_, he, .inl ⟨d, hi, hd, by simp⟩⟩
  · exact ⟨_, he, .inr (s.sameConfig_raise _)⟩
  · exact ⟨_, he, .inr (s.sameConfig_foldByte _)⟩
  · exact ⟨_, he, .inr s.sameConfig_finish⟩
  · exact ⟨_, he, .inr (s.sameConfig_raise _)⟩
  · exact ⟨_, he, .inr (s.sameConfig_deliver _)⟩

/-! ### A whole message and its `FIN` -/

/-- The configuration record that the registers hold (R24 to R29). -/
def State.descriptor (s : State) : Descriptor := ⟨s.degree, s.poly, s.init, s.refIn, s.refOut, s.xorOut⟩

/-- What `MSG message`, then `FIN`, leave of a configured engine: the message folded into `GEN`, and that finalized. -/
def State.finishMessage (s : State) (message : List Byte) : State :=
  State.finish { s with gen := foldMessage s.descriptor s.gen message }

theorem State.finishMessage_nil (s : State) : s.finishMessage [] = s.finish := rfl

/-- Folding the first byte under the matrices of the configured polynomial is the first step of `foldMessage`; the flags
that it writes are written again by `FIN`. -/
theorem State.finishMessage_cons {s : State} (hv : s.status.cfgValid = true) (hs : s.MatrixInv) (b : Byte)
    (rest : List Byte) : s.finishMessage (b :: rest) = (s.foldByte b).finishMessage rest := by
  obtain ⟨h1, h2⟩ := hs hv
  have hgen : foldMessage s.descriptor s.gen (b :: rest) = foldMessage s.descriptor (s.foldByte b).gen rest := by
    rw [State.foldByte_gen, h1, h2]
    rfl
  rw [State.finishMessage, hgen]
  rfl

theorem execAll_message_fin {s : State} (hv : s.status.cfgValid = true) (hs : s.MatrixInv) (message : List Byte) :
    execAll (msgCommands message ++ [.fin]) s = .next (s.finishMessage message) := by
  induction message generalizing s with
  | nil =>
    rw [State.finishMessage_nil]
    exact execAll_fin hv
  | cons b rest ih =>
    rw [State.finishMessage_cons hv hs]
    exact (execAll_cons_of_next (exec_data_configured hv b) _).trans (ih hv (stepInvariant_matrixInv.ofFoldByte s b hs))

/-! ### Transactions -/

/-- What the transaction `COMPUTE` leaves (R160): every register is given by the descriptor and the message; only the
error flags and the model's own fields are kept from before. -/
def State.afterCompute (s : State) (d : Descriptor) (message : List Byte) : State where
  gen := foldMessage d d.init message
  degree := d.degree
  poly := d.poly
  init := d.init
  refIn := d.refIn
  refOut := d.refOut
  xorOut := d.xorOut
  result := computeCrc d message
  status := { cfgValid := true, done := true, errCfg := s.status.errCfg, errProto := s.status.errProto }
  h1 := buildH1 d.poly d.degree.toNat
  h2 := buildH2 d.poly d.degree.toNat
  rsp := some .ok
  pending := s.pending
  resetCount := s.resetCount
  unitOut := s.unitOut

theorem State.finishMessage_configure (s : State) (d : Descriptor) (message : List Byte) :
    (s.configure d.degree d.poly d.init d.refIn d.refOut d.xorOut).finishMessage message = s.afterCompute d message :=
  rfl

theorem execAll_computeCommands_eq {d : Descriptor} (hd : d.valid = true) (message : List Byte) (s : State) :
    execAll (computeCommands d message) s = .next (s.afterCompute d message) := by
  rw [execAll_computeCommands hd, execAll_message_fin rfl (stepInvariant_matrixInv.ofConfigure s d hd),
    State.finishMessage_configure]

/-- Settles O55: `CFG` puts `init` in `GEN`, the `DATA` fold the message into it and `FIN` finalizes it, which makes the
final state `afterCompute`. -/
theorem transactionComputesTheCrc : Obligations.TransactionComputesTheCrc :=
  fun d message s hd =>
    ⟨s.afterCompute d message, execAll_computeCommands_eq hd message s, rfl, rfl, rfl, rfl⟩

/-- Settles O59: what `afterCompute` keeps of the starting state is no register but the two error flags, and the model's
own fields. -/
theorem transactionIsDeterministic : Obligations.TransactionIsDeterministic := by
  intro d message s s' hd
  have hsame : (s.afterCompute d message).SameConfig (s'.afterCompute d message) :=
    ⟨rfl, rfl, rfl, rfl, rfl, rfl, rfl, rfl⟩
  exact ⟨_, _, execAll_computeCommands_eq hd message s, execAll_computeCommands_eq hd message s', hsame,
    rfl, rfl, rfl, rfl, rfl⟩

/-! ### A message in two parts -/

theorem foldMessage_append (d : Descriptor) (g : Word) (a b : List Byte) :
    foldMessage d g (a ++ b) = foldMessage d (foldMessage d g a) b := by
  induction a generalizing g with
  | nil => rfl
  | cons _ _ ih => exact ih _

/-- `FIN` leaves `GEN` as the first part left it, and the second `FIN` replaces the first one's `RESULT` (R154). -/
theorem State.afterCompute_finishMessage (s : State) (d : Descriptor) (a b : List Byte) :
    (s.afterCompute d a).finishMessage b = s.afterCompute d (a ++ b) := by
  rw [State.afterCompute, State.afterCompute, computeCrc, computeCrc, foldMessage_append]
  rfl

/-- Settles O57: the state after the first `FIN` is that of a transaction, configured with its own matrices, so the
second part ends in the state that one transaction of the whole message leaves. -/
theorem splitMessageGivesSameResult : Obligations.SplitMessageGivesSameResult := by
  intro d a b s hd
  have hmatrix : (s.afterCompute d a).MatrixInv := fun _ => ⟨rfl, rfl⟩
  have hrest : execAll (msgCommands b ++ [.fin]) (s.afterCompute d a) = .next (s.afterCompute d (a ++ b)) := by
    rw [execAll_message_fin rfl hmatrix, State.afterCompute_finishMessage]
  exact ⟨_, _, execAll_computeCommands_eq hd a s, rfl, hrest, rfl⟩

end Sys2Proof.Machine

namespace Sys2Proof.Machine

/-! ### ValidConfig, bit by bit -/

theorem legalDegree_iff (degree : DegreeBits) :
    legalDegree degree = true ↔ degree ∈ [4#6, 5#6, 7#6, 8#6, 15#6, 16#6, 24#6, 32#6] := by
  have hmap : degrees = [4#6, 5#6, 7#6, 8#6, 15#6, 16#6, 24#6, 32#6].map BitVec.toNat := rfl
  rw [legalDegree, List.contains_iff_mem, hmap]
  exact List.mem_map_of_injective fun _ _ => BitVec.eq_of_toNat_eq

/-- A word has no bit above 31, so the range check need only look up to there (R171). -/
theorem inRange_iff_bits_to_31 {deg : Nat} (v : Word) :
    inRange deg v = true ↔ ∀ k, deg ≤ k → k ≤ 31 → v.getLsbD k = false := by
  rw [inRange_iff]
  refine ⟨fun h k hk _ => h k hk, fun h k hk => ?_⟩
  by_cases h31 : k ≤ 31
  · exact h k hk h31
  · exact BitVec.getLsbD_of_ge v k (by omega)

theorem validConfig_iff (degree : DegreeBits) (poly init xorOut : Word) :
    validConfig degree poly init xorOut = true ↔
      legalDegree degree = true ∧ inRange degree.toNat poly = true ∧ inRange degree.toNat init = true ∧
        inRange degree.toNat xorOut = true :=
  Descriptor.valid_iff ⟨degree, poly, init, false, false, xorOut⟩

/-- Each operation of an accepted command answers 0, and `raise` answers the code of the error raised (R80, R177). -/
theorem rsp_eq_invalidConfiguration_iff {i : Instr} {s t : State} (hi : i.isCommand = true) (h : exec i s = .next t) :
    t.rsp = some .invalidConfiguration ↔ RaisesInvalidConfiguration i := by
  by_cases hc : RaisesInvalidConfiguration i
  · rw [exec_raisesInvalidConfiguration hc] at h
    cases h
    exact iff_of_true rfl hc
  · refine iff_of_false ?_ hc
    obtain ⟨-, rfl⟩ | ⟨_, -, -, rfl⟩ | ⟨d, hd, hinv, -⟩ | ⟨_, -, -, rfl⟩ | ⟨-, -, rfl⟩ | ⟨-, rfl⟩ | ⟨hunit, -⟩ :=
      exec_next_cases h
    · simp
    · simp
    · exact absurd ⟨d, hd, hinv⟩ hc
    · simp
    · simp
    · simp [ErrorClass.rsp]
    · exact absurd hi (Bool.eq_false_iff.mp hunit)

/-- Settles O15: the three range checks are one statement about the bits from the degree up, and of what a command can
answer only a rejected `CFG`'s `raise` carries InvalidConfiguration. -/
theorem validConfigBitByBit : Obligations.ValidConfigBitByBit := by
  refine ⟨fun degree poly init xorOut => ?_, fun i s hi => ?_⟩
  · rw [validConfig_iff, legalDegree_iff, inRange_iff_bits_to_31, inRange_iff_bits_to_31, inRange_iff_bits_to_31]
    simp only [forall_and]
  · obtain ⟨t, ht⟩ := exec_answers_next i s
    exact ⟨t, ht, rsp_eq_invalidConfiguration_iff hi ht⟩

/-! ### Several engines -/

theorem System.stepEngine_of_step {n : Nat} {sys : System n} {k : Fin n} {t : State} (h : step sys[k] = .next t) :
    sys.stepEngine k = .next (sys.set k t) := by
  rw [System.stepEngine, h]

/-- One engine's new state is not seen at another engine's place (R184). -/
theorem System.getElem_set_of_ne {n : Nat} (sys : System n) {j k : Fin n} (hjk : j ≠ k) (t : State) :
    (sys.set j t)[k] = sys[k] :=
  Vector.getElem_set_ne j.isLt k.isLt (Fin.val_ne_of_ne hjk)

/-- Settles O60: stepping an engine reads and writes only its own entry, and writes to different entries commute. -/
theorem enginesAreIndependent : Obligations.EnginesAreIndependent := by
  intro n sys j k hjk
  obtain ⟨tj, hj⟩ := stepAlwaysAnswersNext sys[j]
  obtain ⟨tk, hk⟩ := stepAlwaysAnswersNext sys[k]
  have hkeep : (sys.set j tj)[k] = sys[k] := sys.getElem_set_of_ne hjk tj
  have hkeep' : (sys.set k tk)[j] = sys[j] := sys.getElem_set_of_ne hjk.symm tk
  have hself : (sys.set j tj)[j] = tj := Vector.getElem_set_self j.isLt
  have hcomm : (sys.set j tj).set k tk = (sys.set k tk).set j tj := Vector.set_comm tj tk (Fin.val_ne_of_ne hjk)
  refine ⟨sys.set j tj, sys.set k tk, (sys.set j tj).set k tk, System.stepEngine_of_step hj, hkeep, ?_,
    System.stepEngine_of_step hk, System.stepEngine_of_step (hkeep ▸ hk), ?_⟩
  · rw [hself, hj]
  · rw [hcomm, System.stepEngine_of_step (hkeep' ▸ hj)]

end Sys2Proof.Machine

namespace Sys2Proof.Machine

/-! ### The step on each host input -/

theorem step_of_no_input {s : State} (h : s.pending = []) : step s = .next s := by
  simp [step, State.nextInput, h]

theorem step_of_idle {s : State} {rest : List HostInput} (h : s.pending = .idle :: rest) :
    step s = .next { s with pending := rest } := by
  simp [step, nextInput_cons h]

theorem step_of_command {s : State} {cmd : CmdWord} {rest : List HostInput} (h : s.pending = .command cmd :: rest) :
    step s = exec (decode cmd) { s with pending := rest } := by
  simp [step, nextInput_cons h]

/-- A reset gives the same state whether or not it interrupts a command (R190, R191). -/
theorem step_of_reset {s : State} {cmd : CmdWord} {rest : List HostInput}
    (h : s.pending = .reset :: rest ∨ s.pending = .resetDuring cmd :: rest) :
    step s = .next (State.applyReset { s with pending := rest }) := by
  obtain h | h := h
  · simp [step, nextInput_cons h]
  · simp [step, nextInput_cons h]

/-- Settles O6: decoding never gives an ill-formed instruction, by O5, and the step executes what it decodes. -/
theorem stepRunsIssuedCommand : Obligations.StepRunsIssuedCommand := by
  intro s cmd rest h
  obtain ⟨-, hwf, -⟩ := decodingIsTotalOnCommands cmd
  exact ⟨hwf, step_of_command h⟩

/-- Settles O7: an idle input is taken and nothing else is written; with no input nothing is taken either. -/
theorem idleHoldsState : Obligations.IdleHoldsState :=
  fun _ _ => ⟨step_of_no_input, step_of_idle⟩

theorem State.applyReset_statusPort (s : State) : s.applyReset.statusPort = 0b0000#4 := by
  rw [State.statusPort, State.applyReset_status]
  decide

/-- Settles O8: both kinds of reset give `applyReset`, whose flags are cleared. -/
theorem resetClearsStatus : Obligations.ResetClearsStatus :=
  fun _ _ _ h => ⟨_, step_of_reset h, State.applyReset_statusPort _, rfl, rfl⟩

/-! ### After reset -/

/-- Settles O9: all five are written out in the reset state; an unconfigured engine's ports show no value. -/
theorem resetStateFlags : Obligations.ResetStateFlags := ⟨rfl, rfl, rfl, rfl, rfl⟩

theorem exec_reset_of_raisesProtocolError {i : Instr} (h : RaisesProtocolError i State.reset) :
    ∃ t, exec i State.reset = .next t ∧ t.statusPort = 0b1000#4 ∧ t.rspPort = some 2#2 :=
  ⟨_, exec_raisesProtocolError h, rfl, rfl⟩

/-- Settles O10: the engine is unconfigured after reset, so that every command of the three raises ProtocolError, which
sets the one flag. -/
theorem firstCommandAfterReset : Obligations.FirstCommandAfterReset :=
  fun din low =>
    ⟨⟨_, rfl, rfl, rfl⟩,
      exec_reset_of_raisesProtocolError (.inl ⟨⟨din, rfl⟩, rfl⟩),
      exec_reset_of_raisesProtocolError (.inr (.inl ⟨rfl, rfl⟩)),
      exec_reset_of_raisesProtocolError (.inr (.inr ⟨low, rfl⟩))⟩

/-! ### The words of the spec -/

/-- Settles O1: by evaluating `decode` on each word. -/
theorem specWordsDecode : Obligations.SpecWordsDecode :=
  ⟨by decide, by decide, by decide, by decide, by decide, by decide, by decide, by decide, by decide⟩

/-! ### Each command's writes -/

/-- Settles O13: an accepted `CFG` is `configure`. -/
theorem cfgLoadsConfiguration : Obligations.CfgLoadsConfiguration :=
  fun degree poly init refIn refOut xorOut s h =>
    exec_cfgCommand_valid (d := ⟨degree, poly, init, refIn, refOut, xorOut⟩) h s

/-- Settles O14: a rejected `CFG` is `raise`. -/
theorem cfgRejectedUnconfigures : Obligations.CfgRejectedUnconfigures :=
  fun degree poly init refIn refOut xorOut s h =>
    exec_cfgCommand_invalid (d := ⟨degree, poly, init, refIn, refOut, xorOut⟩) h s

/-- Settles O16: an accepted `DATA` is `foldByte`, which keeps `CFG_VALID` at 1. -/
theorem dataFoldsOneByte : Obligations.DataFoldsOneByte := by
  intro din s hv
  rw [exec_data_configured hv, State.foldByte, Status.afterData, hv]
  rfl

/-- Settles O17: an accepted `FIN` is `finish`, which keeps `CFG_VALID` at 1. -/
theorem finWritesResult : Obligations.FinWritesResult := by
  intro s hv
  rw [exec_fin_configured hv, State.finish, Status.afterFin, hv]
  rfl

theorem exec_data_unconfigured {s : State} (h : s.status.cfgValid = false) (din : Byte) :
    exec (.data din) s = .next (s.raise .protocolError) :=
  exec_raisesProtocolError (.inl ⟨⟨din, rfl⟩, h⟩)

theorem exec_fin_unconfigured {s : State} (h : s.status.cfgValid = false) :
    exec .fin s = .next (s.raise .protocolError) :=
  exec_raisesProtocolError (.inr (.inl ⟨rfl, h⟩))

/-- Settles O19: both commands need a configuration, and without one they raise ProtocolError. -/
theorem unconfiguredDataAndFinRefused : Obligations.UnconfiguredDataAndFinRefused :=
  fun din _ hv => ⟨exec_data_unconfigured hv din, exec_fin_unconfigured hv⟩

/-- Only ProtocolError's `raise` answers ProtocolError (R177). -/
theorem rsp_eq_protocolError_iff {i : Instr} {s t : State} (hi : i.isCommand = true) (h : exec i s = .next t) :
    t.rsp = some .protocolError ↔ RaisesProtocolError i s := by
  by_cases hp : RaisesProtocolError i s
  · rw [exec_raisesProtocolError hp] at h
    cases h
    exact iff_of_true rfl hp
  · refine iff_of_false ?_ hp
    obtain ⟨-, rfl⟩ | ⟨_, -, -, rfl⟩ | ⟨_, -, -, rfl⟩ | ⟨_, -, -, rfl⟩ | ⟨-, -, rfl⟩ | ⟨hraise, -⟩ | ⟨hunit, -⟩ :=
      exec_next_cases h
    · simp
    · simp
    · simp [ErrorClass.rsp]
    · simp
    · simp
    · exact absurd hraise hp
    · exact absurd hi (Bool.eq_false_iff.mp hunit)

/-- Settles O20: the three cases are those in which an instruction raises ProtocolError. -/
theorem protocolErrorInExactlyThreeCases : Obligations.ProtocolErrorInExactlyThreeCases := by
  intro i s hi
  obtain ⟨t, ht⟩ := exec_answers_next i s
  exact ⟨t, ht, rsp_eq_protocolError_iff hi ht⟩

/-- `configure` writes every register but the two error flags, and none of the model's own fields. -/
theorem State.configure_congr {s s' : State} (hcfg : s'.status.errCfg = s.status.errCfg)
    (hproto : s'.status.errProto = s.status.errProto) (hown : s.SameOwn s') (d : Descriptor) :
    s.configure d.degree d.poly d.init d.refIn d.refOut d.xorOut =
      s'.configure d.degree d.poly d.init d.refIn d.refOut d.xorOut := by
  obtain ⟨hpending, hcount, hunit⟩ := hown
  simp only [State.configure, Status.afterCfg, hcfg, hproto, hpending, hcount, hunit]

/-- Settles O23: an accepted `CFG` is `configure`, and the state that it leaves agrees with the state before it on all
that it keeps. -/
theorem cfgForgetsThePast : Obligations.CfgForgetsThePast := by
  intro d s s' hd
  refine ⟨fun hcfg hproto hown => ?_, _, exec_cfgCommand_valid hd s, ?_⟩
  · rw [exec_cfgCommand_valid hd, exec_cfgCommand_valid hd, State.configure_congr hcfg hproto hown]
  · rw [exec_cfgCommand_valid hd, ← State.configure_congr rfl rfl (s.sameOwn_configure ..)]
    rfl

/-- Settles O25: each command is one operation when accepted and `raise` when not, and each operation writes the two
flags as its rule says. -/
theorem controlStateTransitions : Obligations.ControlStateTransitions := by
  intro s d din low
  refine ⟨?cfg, fun hv => ⟨?data, ?fin⟩, fun hv i hi => ?unconfigured, fun i hi => ?others⟩
  case cfg =>
    cases hd : d.valid with
    | false => exact ⟨_, exec_cfgCommand_invalid hd s, rfl, rfl⟩
    | true => exact ⟨_, exec_cfgCommand_valid hd s, rfl, rfl⟩
  case data => exact ⟨_, exec_data_configured hv din, hv, rfl⟩
  case fin => exact ⟨_, exec_fin_configured hv, hv, rfl⟩
  case unconfigured =>
    obtain rfl | rfl := List.mem_pair.mp hi
    · exact ⟨_, exec_data_unconfigured hv din, hv, rfl⟩
    · exact ⟨_, exec_fin_unconfigured hv, hv, rfl⟩
  case others => obtain rfl | rfl := List.mem_pair.mp hi <;> exact ⟨_, rfl, rfl, rfl⟩

end Sys2Proof.Machine

namespace Sys2Proof.Machine

/-! ### The internal functions -/

/-- Settles O29: each internal function's meaning is `deliver` of its value. -/
theorem internalFunctionsWriteNoRegister : Obligations.InternalFunctionsWriteNoRegister := by
  intro i s hi
  cases i with
  | nop | cfg | data | fin | reserved => exact absurd hi (by simp [Instr.isCommand])
  | get | set | getBit | setBit | serial | parallel | buildH1 | buildH2 | rev8 | fold | revN | finalize =>
    exact ⟨_, rfl⟩

/-- Settles O30: `Get` and `Set` deliver the value itself, and the shifted and masked value is the bit. -/
theorem getSetAndGetBit : Obligations.GetSetAndGetBit := by
  refine fun v k s => ⟨rfl, rfl, ?_⟩
  rw [← getBit_eq_getLsbD]
  rfl

theorem getBit_setBit_self (v : Word) (k : BitIndex) (b : Bool) : getBit (setBit v k b) k = b := by
  rw [getBit_eq_getLsbD, setBit_getLsbD, if_pos rfl]

theorem getBit_setBit_of_ne (v : Word) {j k : BitIndex} (h : j ≠ k) (b : Bool) :
    getBit (setBit v k b) j = getBit v j := by
  rw [getBit_eq_getLsbD, getBit_eq_getLsbD, setBit_getLsbD, if_neg (Fin.val_ne_of_ne h)]

theorem setBit_setBit (v : Word) (k : BitIndex) (b c : Bool) : setBit (setBit v k b) k c = setBit v k c := by
  refine BitVec.eq_of_getLsbD_eq fun j _ => ?_
  rw [setBit_getLsbD, setBit_getLsbD, setBit_getLsbD]
  split <;> rfl

/-- Settles O31: the three laws of a written bit. -/
theorem setBitWritesOneBit : Obligations.SetBitWritesOneBit :=
  fun v k b c _ =>
    ⟨setBit v k b, rfl, getBit_setBit_self v k b, fun _ h => getBit_setBit_of_ne v h b, setBit_setBit v k b c⟩

/-- Settles O32: bit 0, the bits from 1 to below the degree and those from the degree up are the three cases of
`serial_getLsbD`. -/
theorem serialStepBits : Obligations.SerialStepBits := by
  intro prev din poly deg s hlegal
  obtain ⟨hlow, hd⟩ := legalDegree_bounds hlegal
  have hbit := serial_getLsbD (prev := prev) (din := din) (poly := poly) (show 1 ≤ deg.toNat by omega) hd
  refine ⟨_, rfl, ?_, fun i hi hlt => ?_, fun i hge => ?_⟩
  · rw [hbit, if_pos rfl, decide_eq_true (by omega), Bool.true_and]
  · simp [hbit, hlt, show i ≠ 0 by omega]
  · simp [hbit, Nat.not_lt.mpr hge]

theorem injected_eq (data : Word) (i : Nat) : injected data i = if i < 8 then data.getLsbD i else false := by
  unfold injected
  split
  · exact bitAt_of_lt (by omega) data
  · rfl

/-- Settles O33: the states on the way are `Parallel` with fewer clocks. -/
theorem parallelRunsSerialClocks : Obligations.ParallelRunsSerialClocks := by
  intro n data init poly deg s _
  refine ⟨fun i => parallel i data init poly deg.toNat, rfl, fun i hi _ => ?_, rfl⟩
  obtain ⟨k, rfl⟩ := Nat.exists_eq_add_of_le' hi
  rw [← injected_eq]
  rfl

/-- Settles O34: the columns of the two lists that are built, with `unit(n)` as a shift. -/
theorem matrixColumns : Obligations.MatrixColumns := by
  intro poly deg s hlegal _
  obtain ⟨-, hd⟩ := legalDegree_bounds hlegal
  refine ⟨⟨_, rfl, fun n => ?_⟩, ⟨_, rfl, buildH2_length poly deg.toNat, fun n hn => ?_⟩⟩
  · exact buildH1_getElem poly deg.toNat n.val n.isLt
  · rw [buildH2_getElem? poly hn, unitAt_eq_shiftLeft (by omega)]

theorem rev8_rev8 (b : Byte) : rev8 (rev8 b) = b := by
  refine BitVec.eq_of_getLsbD_eq fun d hd => ?_
  rw [rev8_getLsbD _ d (by omega), rev8_getLsbD b (7 - d) (by omega), Nat.sub_sub_self (by omega)]

/-- Settles O35: bit by bit, in `rev8_getLsbD`; `7 - (7 - d)` is `d`. -/
theorem rev8ReversesTheByte : Obligations.Rev8ReversesTheByte :=
  fun b _ => ⟨rev8 b, rfl, rev8_getLsbD b, rev8_rev8 b⟩

theorem revN_revN {v : Word} {deg : Nat} (hd : deg ≤ 32) (hv : inRange deg v = true) : revN (revN v deg) deg = v := by
  refine BitVec.eq_of_getLsbD_eq fun k _ => ?_
  rw [revN_getLsbD hd, revN_getLsbD hd]
  by_cases hk : k < deg
  · rw [Nat.sub_sub_self (by omega)]
    simp [hk, show deg - 1 - k < deg by omega]
  · simp [hk, (inRange_iff v).mp hv k (Nat.not_lt.mp hk)]

/-- Settles O37: bit by bit, in `revN_getLsbD`; twice, it moves every bit below the degree back. -/
theorem revNReversesTheLowBits : Obligations.RevNReversesTheLowBits := by
  intro v deg s hlegal
  obtain ⟨-, hd⟩ := legalDegree_bounds hlegal
  refine ⟨revN v deg.toNat, rfl, fun d hlt => ?_, fun d hge => ?_, revN_revN hd⟩
  · simp [revN_getLsbD hd, hlt]
  · simp [revN_getLsbD hd, Nat.not_lt.mpr hge]

theorem outputSelect_getLsbD {deg k : Nat} (hd : deg ≤ 32) (hk : k < deg) (refOut : Bool) (gen : Word) :
    (outputSelect refOut gen deg).getLsbD k = if refOut then gen.getLsbD (deg - 1 - k) else gen.getLsbD k := by
  cases refOut with
  | false => rfl
  | true => simp [outputSelect, revN_getLsbD hd, hk]

/-- Settles O38: the selected bit, XORed with the mask's. -/
theorem finalizeReversesThenMasks : Obligations.FinalizeReversesThenMasks := by
  intro gen deg refOut xorOut s hlegal
  obtain ⟨-, hd⟩ := legalDegree_bounds hlegal
  refine ⟨finalize gen deg.toNat refOut xorOut, rfl, fun k hk => ?_, inRange_finalize refOut⟩
  rw [finalize, BitVec.getLsbD_xor, outputSelect_getLsbD hd hk]

/-! ### The fold from row vectors -/

/-- Indices that are not selected add nothing. -/
theorem xorOver_of_none_from {m n : Nat} (hmn : m ≤ n) {sel : Nat → Bool} (h : ∀ j, m ≤ j → sel j = false)
    (e : Nat → Bool) : xorOver n sel e = xorOver m sel e := by
  induction n, hmn using Nat.le_induction with
  | base => rfl
  | succ n hmn ih => rw [xorOver_succ, ih, h n hmn, Bool.false_and, Bool.xor_false]

/-- The parity of an AND is the XOR of the bits of one word that the other selects (R122, R123). -/
theorem parity_and {w : Nat} (v u : BitVec w) : parity (v &&& u) = xorOver w v.getLsbD u.getLsbD := by
  have hbits (n : Nat) : (List.range n).foldl (fun a k => a ^^ (v &&& u).getLsbD k) false =
      xorOver n v.getLsbD u.getLsbD := by
    induction n with
    | zero => rfl
    | succ n ih => rw [List.range_succ, List.foldl_concat, ih, BitVec.getLsbD_and, xorOver_succ]
  exact hbits w

/-- The data contribution from any word that holds row `i` of `H1` (R122). -/
theorem dataContribution_eq_parity {h1 : Vector Word 8} {i : Nat} (hi : i < 32) {row : Byte}
    (hrow : ∀ c : ByteIndex, row.getLsbD c.val = h1[c].getLsbD i) (rev : Byte) :
    dataContribution h1 rev i = parity (row &&& rev) := by
  rw [dataContribution, parity_and]
  exact xorOver_congr fun j hj =>
    ⟨(rowH1_getLsbD h1 hi ⟨j, hj⟩).trans (hrow ⟨j, hj⟩).symm, fun _ => rfl⟩

/-- The state contribution from any word that holds row `i` of `H2` and nothing from the degree up (R123). -/
theorem stateContribution_eq_parity {h2 : List Word} {deg i : Nat} (hd : deg ≤ 32) (hi : i < 32)
    (hlength : h2.length = deg) {row : Word} (hrow : ∀ c v, h2[c]? = some v → row.getLsbD c = v.getLsbD i)
    (hnone : ∀ c, deg ≤ c → row.getLsbD c = false) (gen : Word) :
    stateContribution h2 deg gen i = parity (row &&& gen) := by
  rw [stateContribution_eq h2 hd gen hi, parity_and, xorOver_of_none_from hd hnone]
  refine xorOver_congr fun j hj => ⟨?_, fun _ => rfl⟩
  have hcolumn : h2[j]? = some h2[j] := List.getElem?_eq_getElem (by omega)
  rw [hrow j _ hcolumn, h2At, hcolumn, Option.getD_some]

/-- Settles O36: a bit of the fold is the XOR of the two contributions, each the parity of its row ANDed with what the
row selects from. -/
theorem foldBitsFromRows : Obligations.FoldBitsFromRows := by
  intro gen byte h1 h2 deg refIn s hlegal hlength
  obtain ⟨-, hd⟩ := legalDegree_bounds hlegal
  refine ⟨_, rfl, fun i hi r1 r2 hr1 hr2 hnone => ?_, (inRange_iff _).mp inRange_fold⟩
  rw [fold, fillBits_getLsbD hd, decide_eq_true hi, Bool.true_and, dataContribution_eq_parity (by omega) hr1,
    stateContribution_eq_parity hd (by omega) hlength hr2 hnone, inputByte]

end Sys2Proof.Machine

namespace Sys2Proof.Machine

/-! ### Commands as issued words -/

/-- What an instruction does neither reads nor writes the pending inputs (log 4). -/
theorem exec_with_pending (i : Instr) (s : State) :
    ∃ t : State, ∀ pending, exec i { s with pending := pending } = .next { t with pending := pending } := by
  cases i with
  | nop => exact ⟨s.respondOk, fun _ => rfl⟩
  | cfg degree poly init refIn refOut xorOut =>
    cases h : validConfig degree poly init xorOut with
    | false => exact ⟨s.raise .invalidConfiguration, fun _ => cfgRejectedUnconfigures _ _ _ refIn refOut _ _ h⟩
    | true =>
      exact ⟨s.configure degree poly init refIn refOut xorOut, fun _ => cfgLoadsConfiguration _ _ _ _ _ _ _ h⟩
  | data din =>
    cases h : s.status.cfgValid with
    | false =>
      exact ⟨s.raise .protocolError, fun pending => exec_data_unconfigured (s := { s with pending := pending }) h din⟩
    | true => exact ⟨s.foldByte din, fun pending => exec_data_configured (s := { s with pending := pending }) h din⟩
  | fin =>
    cases h : s.status.cfgValid with
    | false =>
      exact ⟨s.raise .protocolError, fun pending => exec_fin_unconfigured (s := { s with pending := pending }) h⟩
    | true => exact ⟨s.finish, fun pending => exec_fin_configured (s := { s with pending := pending }) h⟩
  | reserved => exact ⟨s.raise .protocolError, fun _ => rfl⟩
  | get | set | getBit | setBit | serial | parallel | buildH1 | buildH2 | rev8 | fold | revN | finalize =>
    exact ⟨s.deliver _, fun _ => rfl⟩

/-- Issuing the words of some commands, one a step, is executing the commands (R60). -/
theorem core_run_issued {commands : List Instr} {words : List CmdWord} {rest : List HostInput} {s : State}
    (hwords : commands.mapM encode = some words) (hpending : s.pending = words.map .command ++ rest) :
    Host.Core.run Sys2Proof.core words.length s = execAll commands { s with pending := rest } := by
  induction commands generalizing words s with
  | nil =>
    obtain rfl : [] = words := by simpa using hwords
    obtain rfl : s.pending = rest := hpending
    rfl
  | cons i commands ih =>
    obtain ⟨word, hword, words, htail, rfl⟩ :
        ∃ word, encode i = some word ∧ ∃ tail, commands.mapM encode = some tail ∧ word :: tail = words := by
      simpa [List.mapM_cons, Option.bind_eq_some_iff] using hwords
    obtain ⟨t, ht⟩ := exec_with_pending i s
    have hstep : step s = .next { t with pending := words.map .command ++ rest } := by
      rw [step_of_command hpending, decode_of_encode hword]
      exact ht _
    have hrun : Host.Core.run Sys2Proof.core (words.length + 1) s = execAll commands { t with pending := rest } :=
      (core_run_succ_next hstep words.length).trans (ih htail rfl)
    exact hrun.trans (execAll_cons_of_next (ht rest) commands).symm

/-- Settles O56: issuing the words is executing `COMPUTE` with the later inputs pending, which ends in `afterCompute`. -/
theorem issuedWordsComputeTheCrc : Obligations.IssuedWordsComputeTheCrc :=
  fun _ message _ _ _ hd hwords hpending =>
    ⟨_, (core_run_issued hwords hpending).trans (execAll_computeCommands_eq hd message _), rfl, rfl, rfl, rfl⟩

end Sys2Proof.Machine
